-- ==== Sys2Proof/Word.lean ====
section
/-! DEFINITION. The 32-bit word, the one unit of data of the machine (00_scope.md section 5: "A word is a
32-bit value"), and its reading as a signed integer. -/

namespace Sys2Proof

/-- A register, a memory word, a latch field, the pc: 32 bits, two's complement (00_scope.md R4 `XLEN`). -/
abbrev Word := BitVec 32

/-- The low 16 bits of an instruction word (30_encoding.md R51). -/
abbrev Half := BitVec 16

/-- A 3-bit register field, 0 to 7 (30_encoding.md R51; it cannot be out of range, 10_state.md R26). -/
abbrev Reg := BitVec 3

/-- `wrap32(v)`: the 32-bit word congruent to the integer `v` modulo 2^32 (00_scope.md section 5). -/
def wrap32 (v : Int) : Word := BitVec.ofInt 32 v

end Sys2Proof
end

