-- ==== Sys2Proof/Config.lean ====
section
/-! DEFINITION. The parameters of the machine and the value each takes (00_scope.md R4). -/

namespace Sys2Proof

/-- What an unforwarded or wrongly overridden register read does (70_reset_and_hazards.md R214, decision
D13): `literal` lets the instruction use the value the rules compute, `strict` faults it at the commit point. -/
inductive RawPolicy where
  | literal
  | strict
deriving DecidableEq, Repr

/-- `NUMREGS` of R4: eight registers. -/
abbrev Config.numRegs : Nat := 8

/-- `NUMMEMORY` of R4: words in each of the two memory arrays; addresses are 0 to 65535. -/
def Config.memoryWords : Nat := 65536

/-- `NOOPINSTR` of R4: the word an empty latch holds, `encode(7, 0, 0, 0)` (30_encoding.md R60).
DESIGN CHOICE of the spec, decision D17 (log entry 7); safe, the unused bits are ignored. -/
def Config.noopInstr : Word := 29360128#32

/-- `RAW_POLICY` of R4: `literal` is the value the spec takes (decision D13, log entry 15). -/
def Config.rawPolicy : RawPolicy := .literal

end Sys2Proof
end

