-- ==== Sys2Proof/Syntax.lean ====
section
/-! DEFINITION. The eight instructions (30_encoding.md R52, R53, R56). -/

namespace Sys2Proof

/-- The 3-bit opcode field (30_encoding.md R52): all eight values are assigned. -/
inductive Opcode where
  | add
  | nor
  | lw
  | sw
  | beq
  | jalr
  | halt
  | noop
deriving DecidableEq, Repr

/-- A valid instruction (30_encoding.md R58), one constructor for each row of the opcode table. `offset` is the
signed count of words of R55; the unused fields of JALR, HALT and NOOP, which may hold any value (R59), are
kept so that the word an instruction came from is not lost: it travels in the latches. -/
inductive Instr where
  /-- ADD (40_arith.md R70), format R. -/
  | add (regA regB dest : Reg)
  /-- NOR (40_arith.md R71), format R. -/
  | nor (regA regB dest : Reg)
  /-- LW (41_loadstore.md R80), format I: base, destination, offset. -/
  | lw (regA regB : Reg) (offset : Int)
  /-- SW (41_loadstore.md R81), format I: base, store data, offset. -/
  | sw (regA regB : Reg) (offset : Int)
  /-- BEQ (42_control.md R90), format I: two compared registers, offset. -/
  | beq (regA regB : Reg) (offset : Int)
  /-- JALR (42_control.md R91), format J, its low 16 bits unused. -/
  | jalr (regA regB : Reg) (unused : Half)
  /-- HALT (43_system.md R100), format O, its low 22 bits unused. -/
  | halt (unused : BitVec 22)
  /-- NOOP (43_system.md R101), format O, its low 22 bits unused. -/
  | noop (unused : BitVec 22)
deriving DecidableEq, Repr

/-- The opcode an instruction's word carries (30_encoding.md R52). -/
def Instr.opcode : Instr → Opcode
  | .add _ _ _ => .add
  | .nor _ _ _ => .nor
  | .lw _ _ _ => .lw
  | .sw _ _ _ => .sw
  | .beq _ _ _ => .beq
  | .jalr _ _ _ => .jalr
  | .halt _ => .halt
  | .noop _ => .noop

/-- Why a word is not a valid instruction (30_encoding.md R58). -/
inductive DecodeError where
  /-- Bits 31 to 25, which "must be zero for valid instructions", are not 0. -/
  | highBitsNotZero
  /-- An ADD or NOR whose bits 15 to 3 are not 0 (decision D8). -/
  | destPaddingNotZero
deriving DecidableEq, Repr

end Sys2Proof
end

