-- ==== Sys2Proof/Machine/State.lean ====
section
/-! DEFINITION. The Machine State of 10_state.md R10 as plain data, the reasons a cycle can stop
(60_exceptions.md R181), and the state after reset (70_reset_and_hazards.md R200). -/

namespace Sys2Proof.Machine

/-- One listed memory word: its word address and its value. A cell is a word because the machine has no byte
addresses and "a model must not introduce a byte order" (20_memory.md R32; log entry 4). -/
abbrev WordCell := Nat × Word

/-- One of the two arrays of 65536 words (10_state.md R24), listing the words that differ from what an unlisted
address reads as, by rising address. -/
abbrev Memory := List WordCell

/-- The register file: "8 signed 32-bit registers, no hardwired-zero register" (10_state.md R11). -/
abbrev RegFile := Vector Word 8

/-- The fetch→decode latch (10_state.md R14). -/
structure IFID where
  instr : Word
  pcPlus1 : Word
deriving DecidableEq, Repr

/-- The decode→execute latch (10_state.md R15), with the two ghost bits of 70_reset_and_hazards.md R214. -/
structure IDEX where
  instr : Word
  pcPlus1 : Word
  readRegA : Word
  readRegB : Word
  offset : Word
  badA : Bool
  badB : Bool
deriving DecidableEq, Repr

/-- The execute→memory latch (10_state.md R16), with the ghost bit of 70_reset_and_hazards.md R214. -/
structure EXMEM where
  instr : Word
  branchTarget : Word
  aluResult : Word
  readRegB : Word
  bad : Bool
deriving DecidableEq, Repr

/-- The memory→writeback latch (10_state.md R17). -/
structure MEMWB where
  instr : Word
  writeData : Word
deriving DecidableEq, Repr

/-- The writeback→retire latch (10_state.md R18): no rule reads it, it exists for the trace. -/
structure WBEND where
  instr : Word
  writeData : Word
deriving DecidableEq, Repr

/-- `BUBBLE_IFID` (10_state.md R19). -/
def bubbleIfid : IFID := { instr := Config.noopInstr, pcPlus1 := 0 }

/-- `BUBBLE_IDEX` (10_state.md R19); ghost bits false (70_reset_and_hazards.md R214). -/
def bubbleIdex : IDEX :=
  { instr := Config.noopInstr, pcPlus1 := 0, readRegA := 0, readRegB := 0, offset := 0,
    badA := false, badB := false }

/-- `BUBBLE_EXMEM` (10_state.md R19); ghost bit false (70_reset_and_hazards.md R214). -/
def bubbleExmem : EXMEM :=
  { instr := Config.noopInstr, branchTarget := 0, aluResult := 0, readRegB := 0, bad := false }

/-- The Machine State (10_state.md R10), with the ghost bits of R214 in its latches and the parameter
`RAW_POLICY` (00_scope.md R4), which no step changes. -/
structure State where
  /-- Word address of the next instruction to fetch, signed (R12). -/
  pc : Word
  /-- The eight general registers (R11). -/
  reg : RegFile
  /-- The instruction array, read by IF only and never written after reset (R24). -/
  imem : Memory
  /-- The data array, read by LW and written by SW (R24). -/
  dmem : Memory
  /-- The number of words the image held; bounds the trace and nothing else (R24). -/
  nmem : Nat
  ifid : IFID
  idex : IDEX
  exmem : EXMEM
  memwb : MEMWB
  wbend : WBEND
  /-- Completed cycles, unbounded (R13). -/
  cycles : Nat
  /-- The model parameter `RAW_POLICY` (R4, 70_reset_and_hazards.md R214; log entry 15). -/
  rawPolicy : RawPolicy
deriving DecidableEq, Repr

/-- The faults of 60_exceptions.md R181. Each ends the run without committing the cycle; each stands for what
the source calls undefined behaviour and is safe: the model stops where the hardware may go on. -/
inductive Fault where
  /-- Raised by the step when the word in the MEM stage is not a valid instruction (30_encoding.md R58). Safe. -/
  | illegalInstruction (word : Word)
  /-- Raised by LW and SW in the MEM stage for an address outside 0 to 65535 (20_memory.md R35). Safe. -/
  | dataAddressOutOfRange (address : Word)
  /-- Raised by the IF stage when it fetches with the pc outside 0 to 65535 (20_memory.md R36). Safe. -/
  | fetchAddressOutOfRange (pc : Word)
  /-- Raised under `RAW_POLICY = strict` when the instruction in MEM was decoded with a stale or wrongly
  overridden operand (70_reset_and_hazards.md R214). Safe. -/
  | unforwardedHazard
deriving DecidableEq, Repr

/-- The refusals. -/
inductive Refusal where
  /-- An instruction that has no meaning in this model; no arm of `exec` uses it. Safe. -/
  | notModelled (mnemonic : String)
  /-- Raised by a valid JALR in the MEM stage: the spec's own outcome `Refused(JalrNotSpecified)` (42_control.md
  R91, 60_exceptions.md R181, decision D9). Safe: the model refuses runs the hardware would perform. -/
  | jalrNotSpecified
deriving DecidableEq, Repr

/-- What stands in front of a cycle once the halt check (47_pipeline_driver.md R151) and the validity check of
the MEM stage (R155) are done: the run has ended, the word in MEM is no instruction, or it is one. -/
inductive CommitSlot where
  | halted (cycles : Nat)
  | invalid (word : Word)
  | valid (i : Instr)
deriving DecidableEq, Repr

/-- The reset state `S0` (70_reset_and_hazards.md R200) with no image loaded: pc and cycle counter 0, every
latch a NOOP bubble, every register 0 (decision D2, log entry 6), both memories reading 0 everywhere (decision D4,
log entry 5). An image is loaded at reset by `loadImage`. -/
def State.reset : State :=
  { pc := 0
    reg := Vector.replicate 8 0
    imem := []
    dmem := []
    nmem := 0
    ifid := bubbleIfid
    idex := bubbleIdex
    exmem := bubbleExmem
    memwb := { instr := Config.noopInstr, writeData := 0 }
    wbend := { instr := Config.noopInstr, writeData := 0 }
    cycles := 0
    rawPolicy := Config.rawPolicy }

end Sys2Proof.Machine
end

