-- ==== Sys2Proof/Machine/Flags.lean ====
section
/-! DEFINITION. "There are no status flags, condition codes or predicate registers" (10_state.md R21): no
instruction computes a flag. The one condition of the machine is BEQ's test of its stored ALU result. -/

namespace Sys2Proof.Machine

/-- "testing that stored result against zero" (46_branch_squash.md R141): the compare-with-zero of 40_arith.md
R72. -/
def resultIsZero (aluResult : Word) : Bool := aluResult == 0#32

end Sys2Proof.Machine
end

