-- ==== Sys2Proof/WellFormed.lean ====
section
/-! DEFINITION. When an instruction of the syntax fits its encoding (30_encoding.md R53, R57). -/

namespace Sys2Proof

/-- The range of the 16-bit two's-complement offset, "−32768..32767" (30_encoding.md R53). -/
def offsetFits (offset : Int) : Bool :=
  decide (-32768 ≤ offset) && decide (offset ≤ 32767)

/-- The field ranges of R57. Register fields and unused bits are in range by their types; the offset of LW, SW
and BEQ is the one field that can be out of range. -/
def Instr.wf : Instr → Bool
  | .add _ _ _ => true
  | .nor _ _ _ => true
  | .lw _ _ offset => offsetFits offset
  | .sw _ _ offset => offsetFits offset
  | .beq _ _ offset => offsetFits offset
  | .jalr _ _ _ => true
  | .halt _ => true
  | .noop _ => true

end Sys2Proof
end

