-- ==== Sys2Proof/Decode.lean ====
section
/-! DEFINITION. The instruction codec (30_encoding.md): the field projections of R54, which every stage applies
to whatever word a latch holds, the validity of R58, the decoder into `Instr`, and the encoder of R57. -/

namespace Sys2Proof

/-! ### Field projections (R51, R54): total, no failure mode, bits 31 to 25 take no part. -/

/-- R52: "0=ADD,1=NOR,2=LW,3=SW,4=BEQ,5=JALR,6=HALT,7=NOOP". -/
def opcodeOfBits (b : BitVec 3) : Opcode :=
  match b.toNat with
  | 0 => .add
  | 1 => .nor
  | 2 => .lw
  | 3 => .sw
  | 4 => .beq
  | 5 => .jalr
  | 6 => .halt
  | _ => .noop

/-- The number of an opcode (R52). -/
def opcodeBits : Opcode → BitVec 3
  | .add => 0#3
  | .nor => 1#3
  | .lw => 2#3
  | .sw => 3#3
  | .beq => 4#3
  | .jalr => 5#3
  | .halt => 6#3
  | .noop => 7#3

/-- `opcode(w) = w[24:22]` (R54). -/
def opcodeOf (w : Word) : Opcode := opcodeOfBits (w.extractLsb' 22 3)

/-- `regA(w) = w[21:19]` (R54). -/
def regA (w : Word) : Reg := w.extractLsb' 19 3

/-- `regB(w) = w[18:16]` (R54). -/
def regB (w : Word) : Reg := w.extractLsb' 16 3

/-- `low16(w) = w[15:0]` (R54). -/
def low16 (w : Word) : Half := w.extractLsb' 0 16

/-- `dest(w) = w[2:0]` (00_scope.md section 6). -/
def dest (w : Word) : Reg := w.extractLsb' 0 3

/-- `sext_16` (R55): "bit 15 set ⇒ value -= 65536"; a count of words, not scaled. -/
def sext16 (h : Half) : Word := h.signExtend 32

/-! ### Validity (R58) -/

/-- Bits 31 to 25, "must be zero for valid instructions". -/
def highBits (w : Word) : BitVec 7 := w.extractLsb' 25 7

/-- Bits 15 to 3 of an R-format word, unused between `regB` and `dest`. -/
def destPadding (w : Word) : BitVec 13 := w.extractLsb' 3 13

/-- Whether an opcode has the R format, ADD or NOR (R53). -/
def isRFormat : Opcode → Bool
  | .add => true
  | .nor => true
  | .lw => false
  | .sw => false
  | .beq => false
  | .jalr => false
  | .halt => false
  | .noop => false

/-- `valid(w)` (R58): bits 31 to 25 are 0 and, for ADD and NOR, bits 15 to 3 are 0 (decision D8, log entry
12). Unused fields of JALR, HALT and NOOP are not checked (R59). -/
def valid (w : Word) : Bool :=
  highBits w == 0#7 && (!isRFormat (opcodeOf w) || destPadding w == 0#13)

/-! ### The decoder -/

/-- The instruction whose opcode field and operand fields a word carries (R53, R54, R55). -/
def fieldsOf (w : Word) : Instr :=
  match opcodeOf w with
  | .add => .add (regA w) (regB w) (dest w)
  | .nor => .nor (regA w) (regB w) (dest w)
  | .lw => .lw (regA w) (regB w) (low16 w).toInt
  | .sw => .sw (regA w) (regB w) (low16 w).toInt
  | .beq => .beq (regA w) (regB w) (low16 w).toInt
  | .jalr => .jalr (regA w) (regB w) (low16 w)
  | .halt => .halt (w.extractLsb' 0 22)
  | .noop => .noop (w.extractLsb' 0 22)

/-- The valid instruction a word is, or why it is none (R58). Total on every word. -/
def decode (w : Word) : Except DecodeError Instr :=
  if highBits w == 0#7 then
    if isRFormat (opcodeOf w) && !(destPadding w == 0#13) then .error .destPaddingNotZero
    else .ok (fieldsOf w)
  else .error .highBitsNotZero

/-- The word of an instruction whose bits are `w`, numbered as the opcode table numbers them; an instruction is
one 32-bit word (R50), so bits above `nbits` are 0. -/
def tableWord (nbits w : Nat) : Word := BitVec.ofNat 32 (w % 2 ^ nbits)

/-- What the decoder reads from an instruction whose bits are `w`. -/
def decodeTableWord (nbits w : Nat) : Option Instr :=
  match decode (tableWord nbits w) with
  | .ok i => some i
  | .error _ => none

/-! ### The encoder (R57) -/

/-- R57: `opcode * 2^22 + regA * 2^19 + regB * 2^16 + low16`, the fields laid side by side below seven zero
bits (R51). -/
def encodeFields (op : Opcode) (a b : Reg) (low : Half) : Word :=
  0#7 ++ opcodeBits op ++ a ++ b ++ low

/-- The word of an HALT or NOOP with its 22 unused bits (R53, format O). -/
def encodeUnused (op : Opcode) (unused : BitVec 22) : Word :=
  0#7 ++ opcodeBits op ++ unused

/-- `field mod 2^16` of R57 for a signed offset. -/
def offsetBits (offset : Int) : Half := BitVec.ofInt 16 offset

/-- The low half of an R-format word: 13 zero bits, then `dest` (R53). -/
def destBits (d : Reg) : Half := 0#13 ++ d

/-- `encode` (R57): the word of an instruction. -/
def encode : Instr → Word
  | .add a b d => encodeFields .add a b (destBits d)
  | .nor a b d => encodeFields .nor a b (destBits d)
  | .lw a b offset => encodeFields .lw a b (offsetBits offset)
  | .sw a b offset => encodeFields .sw a b (offsetBits offset)
  | .beq a b offset => encodeFields .beq a b (offsetBits offset)
  | .jalr a b unused => encodeFields .jalr a b unused
  | .halt unused => encodeUnused .halt unused
  | .noop unused => encodeUnused .noop unused

end Sys2Proof
end

