-- ==== Sys2Proof/Machine/Ops.lean ====
section
/-! DEFINITION. The named operations over memory, registers and the state under construction.

The machine has no exceptions, no interrupts and no traps (60_exceptions.md R180, R183): there is no exception to
take and none to return from, so no such operation stands here. What ends a run are the faults, the refusal and the
halt check of R181 and 47_pipeline_driver.md R151. -/

namespace Sys2Proof.Machine

/-! ### Addresses -/

/-- "If it is in 0 to 65535 the access is done" (20_memory.md R35, R36): the address read as a signed word. -/
def addressInRange (a : Word) : Bool :=
  decide (0 ≤ a.toInt) && decide (a.toInt < Config.memoryWords)

/-! ### Memory -/

/-- What an address no cell lists reads as: 0, the reset content of the words the image does not fill (20_memory.md
R37, decision D4, log entry 5). -/
def unlistedWord : Word := 0

/-- The word at an address (`MemRead(a, 1)`, `IFetch(a)`; 00_scope.md section 6). -/
def Memory.read (m : Memory) (a : Nat) : Word :=
  match m with
  | [] => unlistedWord
  | (b, w) :: rest => if b = a then w else Memory.read rest a

/-- One cell in front of a canonical rest, left out where it says what an unlisted address reads as. -/
def Memory.listCell (a : Nat) (v : Word) (rest : Memory) : Memory :=
  if v = unlistedWord then rest else (a, v) :: rest

/-- `MemWrite(a, 1, v)` (00_scope.md section 6): all 32 bits of one word (20_memory.md R33). Keeps the canonical
form. -/
def Memory.write (m : Memory) (a : Nat) (v : Word) : Memory :=
  match m with
  | [] => Memory.listCell a v []
  | (b, w) :: rest =>
    if a < b then Memory.listCell a v ((b, w) :: rest)
    else if a = b then Memory.listCell a v rest
    else (b, w) :: Memory.write rest a v

/-- The canonical form: addresses strictly rising and inside the array, no cell equal to what an unlisted address
reads as. -/
abbrev Memory.wf (m : Memory) : Prop :=
  m.Pairwise (fun c d => c.1 < d.1) ∧ ∀ c ∈ m, c.1 < Config.memoryWords ∧ c.2 ≠ unlistedWord

/-! ### Registers -/

/-- `x[i]` (00_scope.md section 6). Register 0 is an ordinary register (10_state.md R11). -/
def RegFile.read (f : RegFile) (r : Reg) : Word := f[r.toNat]'r.isLt

/-- `x[i] <- v` (00_scope.md section 6). -/
def RegFile.write (f : RegFile) (r : Reg) (v : Word) : RegFile := f.set r.toNat v r.isLt

/-! ### Writes to the state under construction (`N.f <- v`, 00_scope.md section 5) -/

def State.setPc (n : State) (v : Word) : State := { n with pc := v }
def State.setReg (n : State) (v : RegFile) : State := { n with reg := v }
def State.setDmem (n : State) (v : Memory) : State := { n with dmem := v }
def State.setIfid (n : State) (v : IFID) : State := { n with ifid := v }
def State.setIdex (n : State) (v : IDEX) : State := { n with idex := v }
def State.setExmem (n : State) (v : EXMEM) : State := { n with exmem := v }
def State.setMemwb (n : State) (v : MEMWB) : State := { n with memwb := v }
def State.setWbend (n : State) (v : WBEND) : State := { n with wbend := v }
def State.setCycles (n : State) (v : Nat) : State := { n with cycles := v }

/-! ### What stands in front of a cycle -/

/-- The output `halted` (10_state.md R27): "the instruction sitting in the memory→writeback latch is HALT"
(47_pipeline_driver.md R151). -/
def State.halted (s : State) : Bool := opcodeOf s.memwb.instr == .halt

/-- The halt check (47_pipeline_driver.md R151), then the validity check of the MEM stage (R155, 30_encoding.md
R58), in the order of 60_exceptions.md R182. -/
def commitSlot (s : State) : CommitSlot :=
  if s.halted then .halted s.cycles
  else match decode s.exmem.instr with
    | .ok i => .valid i
    | .error _ => .invalid s.exmem.instr

/-- Whether the instruction in MEM carries a stale or wrongly overridden operand that the policy faults
(70_reset_and_hazards.md R214). -/
def unforwarded (s : State) : Bool :=
  match s.rawPolicy with
  | .literal => false
  | .strict => s.exmem.bad

end Sys2Proof.Machine
end

