-- ==== Sys2Proof/Machine/Operands.lean ====
section
/-! DEFINITION. The operands of the instructions: which fields name a source or a destination (30_encoding.md R56,
45_forwarding.md R120), and the values the EX stage computes from them (40_arith.md R70 to R72, 41_loadstore.md R82,
42_control.md R90). -/

namespace Sys2Proof.Machine

/-! ### Source and destination fields -/

/-- `srcA(c)` of 45_forwarding.md R120: is `regA` a source field of the opcode? (decision D11, log entry 14) -/
def srcA : Opcode → Bool
  | .add => true
  | .nor => true
  | .lw => true
  | .sw => true
  | .beq => true
  | .jalr => false
  | .halt => false
  | .noop => false

/-- `srcB(c)` of 45_forwarding.md R120: is `regB` a source field of the opcode? -/
def srcB : Opcode → Bool
  | .add => true
  | .nor => true
  | .lw => false
  | .sw => true
  | .beq => true
  | .jalr => false
  | .halt => false
  | .noop => false

/-- An ADD or NOR word whose destination field is `r` (30_encoding.md R56). -/
def aluWrites (w : Word) (r : Reg) : Bool := isRFormat (opcodeOf w) && dest w == r

/-- An LW word whose destination field is `r` (30_encoding.md R56). -/
def loadWrites (w : Word) (r : Reg) : Bool := opcodeOf w == .lw && regB w == r

/-! ### Values (all on 32 bits, wrapping: 40_arith.md R72, decision D5, log entry 9) -/

/-- ADD: `wrap32(x[regA] + x[regB])` (40_arith.md R70; log entry 19). -/
def addResult (a b : Word) : Word := a + b

/-- NOR: `~(x[regA] | x[regB])`, bitwise (40_arith.md R71; log entry 19). -/
def norResult (a b : Word) : Word := ~~~(a ||| b)

/-- The effective address of LW and SW: `wrap32(base + offset)` (41_loadstore.md R82; log entry 19). -/
def effectiveAddress (base offset : Word) : Word := base + offset

/-- BEQ's comparison: `wrap32(regA - regB)` (46_branch_squash.md R140). -/
def compareResult (a b : Word) : Word := a - b

/-- `wrap32(pcPlus1 + offset)` (46_branch_squash.md R140, 47_pipeline_driver.md R154). -/
def branchTargetOf (pcPlus1 offset : Word) : Word := pcPlus1 + offset

/-- The ALU result of the EX stage, by opcode (47_pipeline_driver.md R154). The 0 of JALR, HALT and NOOP is a dead
field, decision D15 (log entry 8). -/
def aluResult (op : Opcode) (i : IDEX) : Word :=
  match op with
  | .add => addResult i.readRegA i.readRegB
  | .nor => norResult i.readRegA i.readRegB
  | .lw => effectiveAddress i.readRegA i.offset
  | .sw => effectiveAddress i.readRegA i.offset
  | .beq => compareResult i.readRegA i.readRegB
  | .jalr => 0
  | .halt => 0
  | .noop => 0

end Sys2Proof.Machine
end

