-- ==== Sys2Proof/Machine/Forward.lean ====
section
/-! DEFINITION. The forwarding network (45_forwarding.md): three paths, each writing operand values of the state
under construction `n` (R121, decision D10, log entry 14), applied in the order of the cycle's steps, the last one
staying (R126, decision D12). No path writes a register, a memory word, the pc or an `instr` field (R127). -/

namespace Sys2Proof.Machine

/-- `forwardToIDEX(N, r, v)` (45_forwarding.md R130): the two operands independently. -/
def forwardToIdex (r : Reg) (v : Word) (n : State) : State :=
  n.setIdex
    { n.idex with
      readRegA := if srcA (opcodeOf n.idex.instr) && regA n.idex.instr == r then v else n.idex.readRegA
      readRegB := if srcB (opcodeOf n.idex.instr) && regB n.idex.instr == r then v else n.idex.readRegB }

/-- Path 1, execute-stage forward (45_forwarding.md R122): from an ADD or NOR in EX. -/
def forwardFromExecute (s n : State) : State :=
  if isRFormat (opcodeOf s.idex.instr) then forwardToIdex (dest s.idex.instr) n.exmem.aluResult n else n

/-- Path 2, second part, the store-data override (45_forwarding.md R124): a SW in EX whose data register is the one
the LW in MEM loads. -/
def forwardStoreData (loaded : Reg) (v : Word) (n : State) : State :=
  if opcodeOf n.exmem.instr == .sw && regB n.exmem.instr == loaded then
    n.setExmem { n.exmem with readRegB := v }
  else n

/-- Path 2, memory-stage forwards (45_forwarding.md R123, R124): from a LW in MEM with the value it loaded. -/
def forwardFromMemory (loaded : Reg) (v : Word) (n : State) : State :=
  forwardStoreData loaded v (forwardToIdex loaded v n)

/-- Path 3, writeback-stage forward (45_forwarding.md R125): from a LW in WB. -/
def forwardFromWriteback (s n : State) : State :=
  forwardToIdex (regB s.memwb.instr) s.memwb.writeData n

end Sys2Proof.Machine
end

