-- ==== Sys2Proof/Machine/Hazard.lean ====
section
/-! DEFINITION. The load-use hazard detector (44_hazard_detector.md) and the ghost predicate of
`RAW_POLICY = strict` (70_reset_and_hazards.md R214). -/

namespace Sys2Proof.Machine

/-- `isLoadUseHazard(younger, older)` (44_hazard_detector.md R110): two raw words, valid or not, "no
memory/register access". -/
def isLoadUseHazard (younger older : Word) : Bool :=
  opcodeOf older == .lw &&
    match opcodeOf younger with
    | .add => regA younger == regB older || regB younger == regB older
    | .nor => regA younger == regB older || regB younger == regB older
    | .beq => regA younger == regB older || regB younger == regB older
    | .lw => regA younger == regB older
    | .sw => regA younger == regB older
    | .jalr => false
    | .halt => false
    | .noop => false

/-- The predicate as the driver applies it: the word in ID against the word in EX (44_hazard_detector.md R110). -/
def State.stalls (s : State) : Bool := isLoadUseHazard s.ifid.instr s.idex.instr

/-- `bad_f` of 70_reset_and_hazards.md R214 for a source register `r` of the word in ID: the words in EX, MEM and WB
are `i`, `e` and `m`. `storeData` says that the word is a SW and the field its `regB`, whose load-use case the
store-data override mends one cycle later (45_forwarding.md R124). -/
def rawHazard (i e m : Word) (storeData : Bool) (r : Reg) : Bool :=
  if loadWrites i r then !storeData
  else if aluWrites i r then loadWrites e r || loadWrites m r
  else if loadWrites e r then loadWrites m r
  else if aluWrites e r then true
  else if loadWrites m r then false
  else aluWrites m r

/-- `IDEX.badA` of the word in ID (70_reset_and_hazards.md R214). -/
def State.badA (s : State) : Bool :=
  srcA (opcodeOf s.ifid.instr) &&
    rawHazard s.idex.instr s.exmem.instr s.memwb.instr false (regA s.ifid.instr)

/-- `IDEX.badB` of the word in ID (70_reset_and_hazards.md R214). -/
def State.badB (s : State) : Bool :=
  srcB (opcodeOf s.ifid.instr) &&
    rawHazard s.idex.instr s.exmem.instr s.memwb.instr (opcodeOf s.ifid.instr == .sw) (regB s.ifid.instr)

end Sys2Proof.Machine
end

