-- ==== Sys2Proof/Machine/Stages.lean ====
section
/-! DEFINITION. The steps of one clock cycle (47_pipeline_driver.md R150 to R157). In every function `s` is the old
snapshot, the only one a stage's inputs are read from, and `n` the snapshot under construction (10_state.md R28). Step
5, the MEM stage, is the meaning of the instruction at the commit point and stands in the family files. -/

namespace Sys2Proof.Machine

/-! ### Step 2, Fetch -/

/-- `S.pc + 1` (47_pipeline_driver.md R152). -/
def State.nextPc (s : State) : Word := s.pc + 1

/-- What IF writes into `IFID` when it fetches: the word of `imem` at the pc, and the pc plus 1 (R152). -/
def fetchLatch (s : State) : IFID := { instr := s.imem.read s.pc.toNat, pcPlus1 := s.nextPc }

/-- R152; on a stall the pc and `IFID` are held (44_hazard_detector.md R111). -/
def fetchStage (s n : State) : State :=
  if s.stalls then n else (n.setIfid (fetchLatch s)).setPc s.nextPc

/-- The IF stage can do its work: it does not fetch, or the pc is an address of `imem` (20_memory.md R36). -/
def State.fetchAllowed (s : State) : Bool := s.stalls || addressInRange s.pc

/-! ### Step 3, Decode -/

/-- The five fields ID writes for every opcode (R153): the registers of `reg` its fields name, the extended low half.
No ghost bit is set here. -/
def decodeLatch (reg : RegFile) (i : IFID) : IDEX :=
  { instr := i.instr
    pcPlus1 := i.pcPlus1
    readRegA := reg.read (regA i.instr)
    readRegB := reg.read (regB i.instr)
    offset := sext16 (low16 i.instr)
    badA := false
    badB := false }

/-- R153; on a stall the bubble (44_hazard_detector.md R111). The ghost bits are those of 70_reset_and_hazards.md
R214, under both policies. -/
def decodeStage (s n : State) : State :=
  if s.stalls then n.setIdex bubbleIdex
  else n.setIdex { decodeLatch s.reg s.ifid with badA := s.badA, badB := s.badB }

/-! ### Step 4, Execute -/

/-- What EX writes into `EXMEM` (R154); the ghost bit is copied (70_reset_and_hazards.md R214). -/
def executeLatch (i : IDEX) : EXMEM :=
  { instr := i.instr
    branchTarget := branchTargetOf i.pcPlus1 i.offset
    aluResult := aluResult (opcodeOf i.instr) i
    readRegB := i.readRegB
    bad := i.badA || i.badB }

/-- R154, then path 1 (45_forwarding.md R122). -/
def executeStage (s n : State) : State := forwardFromExecute s (n.setExmem (executeLatch s.idex))

/-! ### Step 5, Memory: the pieces the instructions' meanings are made of -/

/-- `N.MEMWB <- { instr = w, writeData = v }` (R155). -/
def intoMemwb (w v : Word) (n : State) : State := n.setMemwb { instr := w, writeData := v }

/-- Redirect and squash of a taken branch (46_branch_squash.md R142, R143): it replaces what steps 2, 3 and 4 wrote
into `N`, a stall's held values among it (R145). -/
def redirectAndSquash (target : Word) (n : State) : State :=
  (((n.setPc target).setIfid bubbleIfid).setIdex bubbleIdex).setExmem bubbleExmem

/-! ### Step 6, Writeback -/

/-- The register write of WB, by opcode (R156), and path 3 for a LW (45_forwarding.md R125). A HALT or a JALR cannot
stand in WB in a run (R156) and writes nothing. -/
def retireWord (s n : State) : State :=
  match opcodeOf s.memwb.instr with
  | .add => n.setReg (s.reg.write (dest s.memwb.instr) s.memwb.writeData)
  | .nor => n.setReg (s.reg.write (dest s.memwb.instr) s.memwb.writeData)
  | .lw => forwardFromWriteback s (n.setReg (s.reg.write (regB s.memwb.instr) s.memwb.writeData))
  | .sw => n
  | .beq => n
  | .jalr => n
  | .halt => n
  | .noop => n

/-- R156, with `N.WBEND <- S.MEMWB`. -/
def writebackStage (s n : State) : State :=
  (retireWord s n).setWbend { instr := s.memwb.instr, writeData := s.memwb.writeData }

/-! ### The cycle around a MEM stage -/

/-- Steps 2, 3 and 4, from `N <- S` (47_pipeline_driver.md R150, R157). -/
def frontStages (s : State) : State := executeStage s (decodeStage s (fetchStage s s))

/-- The whole cycle of an instruction whose MEM stage writes `memStage` into `N`: the two conditions of
60_exceptions.md R182 that come after those of the instruction itself, steps 2 to 4, step 5, step 6, and the commit with
`cycles + 1` (47_pipeline_driver.md R157). A fault commits nothing. -/
def commitCycle (s : State) (memStage : State → State) : Host.Outcome State Fault Refusal :=
  if unforwarded s then .fault .unforwardedHazard
  else if s.fetchAllowed then
    .next ((writebackStage s (memStage (frontStages s))).setCycles (s.cycles + 1))
  else .fault (.fetchAddressOutOfRange s.pc)

end Sys2Proof.Machine
end

