-- ==== Sys2Proof/Machine/Arith.lean ====
section
/-! DEFINITION. ADD and NOR (40_arith.md). Each is the clock cycle in which the instruction stands in the MEM stage
(log entry 2): its result, computed in EX by `aluResult` with `addResult` or `norResult`, goes to `MEMWB`; the WB stage
of the next cycle writes it to `dest` (`retireWord`). -/

namespace Sys2Proof.Machine

/-- ADD at the commit point (40_arith.md R70): `N.MEMWB.writeData <- S.EXMEM.aluResult`. -/
def execAdd (a b d : Reg) (s : State) : Host.Outcome State Fault Refusal :=
  commitCycle s (intoMemwb (encode (.add a b d)) s.exmem.aluResult)

/-- NOR at the commit point (40_arith.md R71): `N.MEMWB.writeData <- S.EXMEM.aluResult`. -/
def execNor (a b d : Reg) (s : State) : Host.Outcome State Fault Refusal :=
  commitCycle s (intoMemwb (encode (.nor a b d)) s.exmem.aluResult)

end Sys2Proof.Machine
end

