-- ==== Sys2Proof/Machine/Control.lean ====
section
/-! DEFINITION. BEQ and JALR (42_control.md), each in the clock cycle in which it stands in the MEM stage (log entry
2). -/

namespace Sys2Proof.Machine

/-- BEQ's MEM stage (42_control.md R90, 46_branch_squash.md R141 to R144): taken exactly when the difference EX stored
is zero. `MEMWB.writeData = 0` is a dead field, decision D15 (log entry 8). -/
def resolveBranch (w aluResult target : Word) (n : State) : State :=
  if resultIsZero aluResult then redirectAndSquash target (intoMemwb w 0 n) else intoMemwb w 0 n

/-- BEQ at the commit point (42_control.md R90). A target outside 0 to 65535 is no fault of the BEQ. -/
def execBeq (a b : Reg) (offset : Int) (s : State) : Host.Outcome State Fault Refusal :=
  commitCycle s (resolveBranch (encode (.beq a b offset)) s.exmem.aluResult s.exmem.branchTarget)

/-- JALR at the commit point: "refuse JalrNotSpecified" (42_control.md R91, 60_exceptions.md R181, decision D9; log
entry 13). -/
def execJalr (_a _b : Reg) (_unused : Half) (_s : State) : Host.Outcome State Fault Refusal :=
  .refused .jalrNotSpecified

end Sys2Proof.Machine
end

