-- ==== Sys2Proof/Machine/LoadStore.lean ====
section
/-! DEFINITION. LW and SW (41_loadstore.md). Each is the clock cycle in which the instruction stands in the MEM stage
(log entry 2): its effective address was computed in EX by `aluResult` with `effectiveAddress`. -/

namespace Sys2Proof.Machine

/-- The address check of LW and SW (20_memory.md R35, 41_loadstore.md R82), before any state is written. -/
def withDataAddress (s : State) (access : Nat → Host.Outcome State Fault Refusal) :
    Host.Outcome State Fault Refusal :=
  if addressInRange s.exmem.aluResult then access s.exmem.aluResult.toNat
  else .fault (.dataAddressOutOfRange s.exmem.aluResult)

/-- LW's MEM stage (41_loadstore.md R80): the loaded word goes to `MEMWB` and through path 2 (45_forwarding.md R123,
R124). -/
def loadWord (w : Word) (loaded : Reg) (v : Word) (n : State) : State :=
  forwardFromMemory loaded v (intoMemwb w v n)

/-- SW's MEM stage (41_loadstore.md R81): one word of `dmem`; `MEMWB.writeData = 0` is a dead field, decision D15 (log
entry 8). -/
def storeWord (w : Word) (a : Nat) (v : Word) (n : State) : State :=
  (intoMemwb w 0 n).setDmem (n.dmem.write a v)

/-- LW at the commit point (41_loadstore.md R80). -/
def execLw (a b : Reg) (offset : Int) (s : State) : Host.Outcome State Fault Refusal :=
  withDataAddress s fun ea => commitCycle s (loadWord (encode (.lw a b offset)) b (s.dmem.read ea))

/-- SW at the commit point (41_loadstore.md R81): the data is `S.EXMEM.readRegB`. -/
def execSw (a b : Reg) (offset : Int) (s : State) : Host.Outcome State Fault Refusal :=
  withDataAddress s fun ea => commitCycle s (storeWord (encode (.sw a b offset)) ea s.exmem.readRegB)

end Sys2Proof.Machine
end

