-- ==== Sys2Proof/Machine/System.lean ====
section
/-! DEFINITION. HALT and NOOP (43_system.md), each in the clock cycle in which it stands in the MEM stage (log entry
2). -/

namespace Sys2Proof.Machine

/-- HALT at the commit point (43_system.md R100): it moves to `MEMWB`, where the halt check of the next cycle finds it
(`commitSlot`). `MEMWB.writeData = 0` is a dead field, decision D15 (log entry 8). -/
def execHalt (unused : BitVec 22) (s : State) : Host.Outcome State Fault Refusal :=
  commitCycle s (intoMemwb (encode (.halt unused)) 0)

/-- NOOP at the commit point (43_system.md R101): it moves on and changes nothing else. -/
def execNoop (unused : BitVec 22) (s : State) : Host.Outcome State Fault Refusal :=
  commitCycle s (intoMemwb (encode (.noop unused)) 0)

end Sys2Proof.Machine
end

