-- ==== Sys2Proof/Machine/Dispatch.lean ====
section
/-! DEFINITION. The meaning of each instruction: the clock cycle in which it stands in the MEM stage, the commit point
(47_pipeline_driver.md R155, R166; log entry 2). -/

namespace Sys2Proof.Machine

def exec (i : Instr) (s : State) : Host.Outcome State Fault Refusal :=
  match i with
  | .add a b d => Sys2Proof.Machine.execAdd a b d s
  | .nor a b d => Sys2Proof.Machine.execNor a b d s
  | .lw a b offset => Sys2Proof.Machine.execLw a b offset s
  | .sw a b offset => Sys2Proof.Machine.execSw a b offset s
  | .beq a b offset => Sys2Proof.Machine.execBeq a b offset s
  | .jalr a b unused => Sys2Proof.Machine.execJalr a b unused s
  | .halt unused => Sys2Proof.Machine.execHalt unused s
  | .noop unused => Sys2Proof.Machine.execNoop unused s

end Sys2Proof.Machine
end

