-- ==== Sys2Proof/Machine/Loader.lean ====
section
/-! DEFINITION. Loading an image at reset (70_reset_and_hazards.md R200 to R205, 30_encoding.md R62): how a program comes
to run. The `rst` signal with its `image` input (10_state.md R27) is `loadImage`; it is no step of the machine. Also the
placing of one instruction where the next step takes its instruction from. -/

namespace Sys2Proof.Machine

/-- Why no reset state exists (70_reset_and_hazards.md R204, R205). Usage and I/O errors belong to the program around the
loader (00_scope.md R3). -/
inductive LoadError where
  /-- "Format error (a line is not a parseable integer)" (R204); lines count from 0. -/
  | format (line : Nat)
  /-- A literal outside -2147483648 to 2147483647 (R205, decision D25). -/
  | literalOutOfRange (index : Nat)
  /-- More than 65536 words (R205, decision D25). -/
  | tooManyWords
deriving DecidableEq, Repr

/-! ### The image text (30_encoding.md R62) -/

/-- The value of a decimal digit. -/
def digitValue (c : Char) : Option Nat :=
  if '0' ≤ c ∧ c ≤ '9' then some (c.toNat - '0'.toNat) else none

/-- A number whose leading digits are already worth `acc`. -/
def parseDigits (acc : Nat) : List Char → Option Nat
  | [] => some acc
  | c :: cs =>
    match digitValue c with
    | some d => parseDigits (acc * 10 + d) cs
    | none => none

/-- At least one digit. -/
def parseNat : List Char → Option Nat
  | [] => none
  | c :: cs => parseDigits 0 (c :: cs)

/-- One line, "a base-10 signed integer literal": an optional minus sign and digits, nothing else (log entry 18). -/
def parseLine : List Char → Option Int
  | '-' :: cs => (parseNat cs).map fun k => -(k : Int)
  | cs => (parseNat cs).map fun k => (k : Int)

/-- The lines of a text, each ended by a line feed; the last may lack it. `line` holds the characters read of the
present line, newest first. -/
def splitLines (line : List Char) : List Char → List (List Char)
  | [] => if line.isEmpty then [] else [line.reverse]
  | c :: cs => if c = '\n' then line.reverse :: splitLines [] cs else splitLines (c :: line) cs

/-- Every line as an integer, or the number of the first line that is none. -/
def parseLines (at_ : Nat) : List (List Char) → Except LoadError (List Int)
  | [] => .ok []
  | l :: ls =>
    match parseLine l with
    | none => .error (.format at_)
    | some v =>
      match parseLines (at_ + 1) ls with
      | .ok vs => .ok (v :: vs)
      | .error e => .error e

/-- "plain text, one line per word, each line a base-10 signed integer literal" (30_encoding.md R62). -/
def parseImage (text : List Char) : Except LoadError (List Int) := parseLines 0 (splitLines [] text)

/-! ### The load (70_reset_and_hazards.md R203, R205) -/

/-- Whether a literal is a signed 32-bit word. -/
def fitsWord (v : Int) : Bool := decide (-2147483648 ≤ v) && decide (v ≤ 2147483647)

/-- The words of an image, or the index of the first literal that is no word. -/
def imageWords (index : Nat) : List Int → Except LoadError (List Word)
  | [] => .ok []
  | v :: vs =>
    if fitsWord v then
      match imageWords (index + 1) vs with
      | .ok ws => .ok (wrap32 v :: ws)
      | .error e => .error e
    else .error (.literalOutOfRange index)

/-- The words at the addresses from `a` on, in canonical form (20_memory.md R37). -/
def Memory.ofWords (a : Nat) : List Word → Memory
  | [] => []
  | w :: ws => Memory.listCell a w (Memory.ofWords (a + 1) ws)

/-- The reset state with the words `ws` in both arrays (R203), a register file (decision D2: `reg0` is a model argument,
all zero by default) and a policy (00_scope.md R4). -/
def State.withImage (policy : RawPolicy) (reg0 : RegFile) (ws : List Word) : State :=
  { State.reset with
    reg := reg0
    imem := Memory.ofWords 0 ws
    dmem := Memory.ofWords 0 ws
    nmem := ws.length
    rawPolicy := policy }

/-- `S0` for an image, or why there is none (R200, R203, R205). -/
def loadImage (policy : RawPolicy) (reg0 : RegFile) (image : List Int) : Except LoadError State :=
  if image.length ≤ Config.memoryWords then
    match imageWords 0 image with
    | .ok ws => .ok (State.withImage policy reg0 ws)
    | .error e => .error e
  else .error .tooManyWords

/-! ### One instruction at the commit point -/

/-- The state with a word in the MEM slot, as ID and EX would have put it there: fetched at the pc, its operands read
from the registers with nothing in flight ahead of it (47_pipeline_driver.md R152 to R154; log entry 3). -/
def placeInMem (s : State) (w : Word) : State :=
  s.setExmem (executeLatch (decodeLatch s.reg { instr := w, pcPlus1 := s.nextPc }))

end Sys2Proof.Machine
end

