-- ==== Sys2Proof/Machine/Step.lean ====
section
/-! DEFINITION. One clock cycle, `Cycle` of 47_pipeline_driver.md R159: one rising edge of `clk` (10_state.md R27). -/

namespace Sys2Proof.Machine

/-- The halt check, the validity check, then the cycle of the instruction in the MEM stage (47_pipeline_driver.md R150,
R151, R155). A halted machine stays as it is (R158, decision D19; log entry 1). -/
def step (s : State) : Host.Outcome State Fault Refusal :=
  match commitSlot s with
  | .halted _ => .next s
  | .invalid w => .fault (.illegalInstruction w)
  | .valid i => exec i s

/-- The instruction whose bits are `w` placed where the next step takes its instruction from, the MEM slot (log entry
3). -/
def State.withFetchWord (s : State) (nbits w : Nat) : State := placeInMem s (tableWord nbits w)

end Sys2Proof.Machine
end

