-- ==== Sys2Proof/Machine/Cycle.lean ====
section
/-! DEFINITION. `Cycle` with its own four outcomes (00_scope.md R5), the outputs of the block (10_state.md R27) and the
trace row of 10_state.md R25. -/

namespace Sys2Proof.Machine

/-- `Next(State')`, `Halted(cycles)`, `Fault(reason)` or `Refused(reason)` (00_scope.md R5). -/
inductive CycleOutcome where
  | next (s : State)
  | halted (cycles : Nat)
  | fault (r : Fault)
  | refused (r : Refusal)
deriving DecidableEq, Repr

/-- `Cycle(S)` (47_pipeline_driver.md R159). It is `step` but for the halt, which `step` shows as a machine that stays as
it is (log entry 1). -/
def cycle (s : State) : CycleOutcome :=
  if s.halted then .halted s.cycles
  else match step s with
    | .next t => .next t
    | .fault r => .fault r
    | .refused r => .refused r

/-- What an output shows of an instruction word: the instruction, or data (95_test_vectors.md, "How to read a trace"). -/
inductive ShownWord where
  | instr (i : Instr)
  | data (w : Word)
deriving DecidableEq, Repr

/-- A word as the trace shows it: a valid instruction decoded, any other word as data. -/
def shownWord (w : Word) : ShownWord :=
  match decode w with
  | .ok i => .instr i
  | .error _ => .data w

/-- What the trace shows before a cycle (10_state.md R25): "pc, full memory contents up to the loaded program size, all 8
registers, and for each of the 5 latches: the decoded instruction mnemonic/fields and any stage-specific scalar fields". Its
text form is outside the block (00_scope.md R3). -/
structure TraceRow where
  cycles : Nat
  pc : Word
  /-- The "full memory contents": `dmem` alone, a DESIGN CHOICE (log entry 24). -/
  memory : List Word
  reg : RegFile
  ifid : ShownWord × Word
  idex : ShownWord × Word × Word × Word × Word
  exmem : ShownWord × Word × Word × Word
  memwb : ShownWord × Word
  wbend : ShownWord × Word
deriving DecidableEq, Repr

/-- The trace row of a state (10_state.md R25). DESIGN CHOICE (log entry 24): neither R24 nor R25 says which of the two arrays
of decision D1 the memory of the trace is; the row shows the first `nmem` words of `dmem`. -/
def traceRow (s : State) : TraceRow :=
  { cycles := s.cycles
    pc := s.pc
    memory := (List.range s.nmem).map s.dmem.read
    reg := s.reg
    ifid := (shownWord s.ifid.instr, s.ifid.pcPlus1)
    idex := (shownWord s.idex.instr, s.idex.pcPlus1, s.idex.readRegA, s.idex.readRegB, s.idex.offset)
    exmem := (shownWord s.exmem.instr, s.exmem.branchTarget, s.exmem.aluResult, s.exmem.readRegB)
    memwb := (shownWord s.memwb.instr, s.memwb.writeData)
    wbend := (shownWord s.wbend.instr, s.wbend.writeData) }

/-- The observation recommended for claims (10_state.md R25, decision D23): registers, data memory and cycle count, at the
halt. -/
def haltObservation (s : State) : Option (RegFile × Memory × Nat) :=
  if s.halted then some (s.reg, s.dmem, s.cycles) else none

end Sys2Proof.Machine
end

