-- ==== Sys2Proof/Machine/Sequential.lean ====
section
/-! DEFINITION. The sequential meaning of the instructions: the "one-instruction-per-step reference executor" that the
source states an equivalence property against (00_scope.md R3 (b), 40_arith.md R70, R71, 41_loadstore.md R80, R81,
42_control.md R90, R91, 43_system.md R100, R101). It is no part of the block; claims compare the pipeline with it
(70_reset_and_hazards.md R217). -/

namespace Sys2Proof.Machine

/-- What the sequential meaning acts on. `imem` is read only (20_memory.md R43). -/
structure ArchState where
  pc : Word
  reg : RegFile
  imem : Memory
  dmem : Memory
deriving DecidableEq, Repr

/-- How one sequential step ends. -/
inductive SeqOutcome where
  | next (a : ArchState)
  | halted (a : ArchState)
  | fault (r : Fault)
  | refused (r : Refusal)
deriving DecidableEq, Repr

/-- The architectural part of a machine state. -/
def State.arch (s : State) : ArchState := { pc := s.pc, reg := s.reg, imem := s.imem, dmem := s.dmem }

/-- `x[d] <- v; pc <- pc + 1`. -/
def ArchState.writeReg (d : Reg) (v : Word) (a : ArchState) : ArchState :=
  { a with reg := a.reg.write d v, pc := a.pc + 1 }

/-- `ea <- wrap32(x[base] + sext_16(low16))` (41_loadstore.md R80, R82). -/
def ArchState.dataAddress (a : ArchState) (base : Reg) (offset : Int) : Word :=
  effectiveAddress (a.reg.read base) (sext16 (offsetBits offset))

/-- "if x[regA] = x[regB]" (42_control.md R90). -/
def ArchState.branchTaken (a : ArchState) (ra rb : Reg) : Bool := a.reg.read ra == a.reg.read rb

/-- The sequential meaning of one instruction. A HALT leaves the pc as it is: what the reference leaves there is not in
the source (91_not_in_source.md N10; log entry 23). A JALR has none (95_test_vectors.md T9). -/
def seqExec (i : Instr) (a : ArchState) : SeqOutcome :=
  match i with
  | .add ra rb d => .next (a.writeReg d (addResult (a.reg.read ra) (a.reg.read rb)))
  | .nor ra rb d => .next (a.writeReg d (norResult (a.reg.read ra) (a.reg.read rb)))
  | .lw ra rb offset =>
    let ea := a.dataAddress ra offset
    if addressInRange ea then .next (a.writeReg rb (a.dmem.read ea.toNat)) else .fault (.dataAddressOutOfRange ea)
  | .sw ra rb offset =>
    let ea := a.dataAddress ra offset
    if addressInRange ea then
      .next { a with dmem := a.dmem.write ea.toNat (a.reg.read rb), pc := a.pc + 1 }
    else .fault (.dataAddressOutOfRange ea)
  | .beq ra rb offset =>
    if a.branchTaken ra rb then
      .next { a with pc := branchTargetOf (a.pc + 1) (sext16 (offsetBits offset)) }
    else .next { a with pc := a.pc + 1 }
  | .jalr _ _ _ => .refused .jalrNotSpecified
  | .halt _ => .halted a
  | .noop _ => .next { a with pc := a.pc + 1 }

/-- One sequential step: fetch at the pc, decode, execute. -/
def seqStep (a : ArchState) : SeqOutcome :=
  if addressInRange a.pc then
    match decode (a.imem.read a.pc.toNat) with
    | .ok i => seqExec i a
    | .error _ => .fault (.illegalInstruction (a.imem.read a.pc.toNat))
  else .fault (.fetchAddressOutOfRange a.pc)

end Sys2Proof.Machine
end

