-- ==== Sys2Proof/Safety.lean ====
section
/-! DEFINITION. The words claims are stated in: when a cycle is not stopped, the invariant of the machine, runs that
halt, dead fields, and the safe executed paths and cycle counts of 70_reset_and_hazards.md R216 and R217. -/

namespace Sys2Proof.Machine

/-! ### One cycle -/

/-- Neither of the two conditions of 60_exceptions.md R182 that do not depend on the instruction in MEM holds: no
operand that the policy faults, and no fetch outside 0 to 65535. -/
abbrev State.CycleClear (s : State) : Prop :=
  (s.rawPolicy = .strict → s.exmem.bad = false) ∧ (s.stalls = false → addressInRange s.pc = true)

/-- A clock cycle that is committed: the machine is not halted and the cycle's outcome is `Next` (00_scope.md R5). -/
abbrev State.Cycles (s t : State) : Prop := cycle s = .next t

/-- The BEQ in MEM is taken in this cycle (46_branch_squash.md R141). -/
def State.takesBranch (s : State) : Bool :=
  opcodeOf s.exmem.instr == .beq && resultIsZero s.exmem.aluResult

/-- What register `r` holds after the WB stage of this cycle (47_pipeline_driver.md R156). -/
def State.regAfter (s : State) (r : Reg) : Word :=
  if aluWrites s.memwb.instr r || loadWrites s.memwb.instr r then s.memwb.writeData else s.reg.read r

/-- The value the youngest instruction ahead of ID that writes `r` gives it, in the order EX, MEM, WB, register file:
what the sequential meaning wants an operand to be (45_forwarding.md R129). A LW in EX has no value yet; the entry for it is
never asked for where the detector stalls. -/
def State.youngestValue (s : State) (r : Reg) : Word :=
  if aluWrites s.idex.instr r then aluResult (opcodeOf s.idex.instr) s.idex
  else if loadWrites s.exmem.instr r then s.dmem.read s.exmem.aluResult.toNat
  else if aluWrites s.exmem.instr r then s.exmem.aluResult
  else s.regAfter r

/-- A SW in EX and a LW in MEM that loads its data register (45_forwarding.md R124). -/
def State.overridesStoreData (s : State) : Bool :=
  opcodeOf s.exmem.instr == .lw && opcodeOf s.idex.instr == .sw && regB s.idex.instr == regB s.exmem.instr

/-- What a committed cycle does to everything but the data memory and the slots from the pc to `MEMWB`, whatever
instruction stands in MEM: WB writes its register and `WBEND`, the cycle is counted, nothing else changes
(47_pipeline_driver.md R156, R157). -/
structure State.CommonFrame (s t : State) : Prop where
  reg : ∀ r, t.reg.read r = s.regAfter r
  imem : t.imem = s.imem
  nmem : t.nmem = s.nmem
  rawPolicy : t.rawPolicy = s.rawPolicy
  cycles : t.cycles = s.cycles + 1
  wbend : t.wbend = { instr := s.memwb.instr, writeData := s.memwb.writeData }

/-- The three younger instructions go on: IF fetches, or holds on a stall; ID passes its word on, or a bubble on a stall;
EX passes its word on with its results (47_pipeline_driver.md R152 to R154, 44_hazard_detector.md R111). -/
structure State.FlowsOn (s t : State) : Prop where
  pc : t.pc = if s.stalls then s.pc else s.pc + 1
  ifid_instr : t.ifid.instr = if s.stalls then s.ifid.instr else s.imem.read s.pc.toNat
  ifid_pcPlus1 : t.ifid.pcPlus1 = if s.stalls then s.ifid.pcPlus1 else s.pc + 1
  idex_instr : t.idex.instr = if s.stalls then Config.noopInstr else s.ifid.instr
  idex_pcPlus1 : t.idex.pcPlus1 = if s.stalls then 0 else s.ifid.pcPlus1
  idex_offset : t.idex.offset = if s.stalls then 0 else sext16 (low16 s.ifid.instr)
  idex_badA : t.idex.badA = if s.stalls then false else s.badA
  idex_badB : t.idex.badB = if s.stalls then false else s.badB
  exmem_instr : t.exmem.instr = s.idex.instr
  exmem_branchTarget : t.exmem.branchTarget = s.idex.pcPlus1 + s.idex.offset
  exmem_aluResult : t.exmem.aluResult = aluResult (opcodeOf s.idex.instr) s.idex
  exmem_bad : t.exmem.bad = (s.idex.badA || s.idex.badB)

/-- IF, ID, EX, MEM and WB hold no instruction but the NOOP of an empty slot. -/
abbrev State.Drained (s : State) : Prop :=
  s.ifid.instr = Config.noopInstr ∧ s.idex.instr = Config.noopInstr ∧
    s.exmem.instr = Config.noopInstr ∧ s.memwb.instr = Config.noopInstr

/-! ### The invariant -/

/-- What every cycle keeps: both memories in canonical form (20_memory.md R30), the image no larger than the memory
(10_state.md R10), a word that reached `MEMWB` is a valid instruction and no JALR (47_pipeline_driver.md R151, R155), and a
word that reached `WBEND` is neither of those nor a HALT (43_system.md R100: "a HALT never goes through WB"). -/
structure State.Inv (s : State) : Prop where
  imem_wf : s.imem.wf
  dmem_wf : s.dmem.wf
  nmem_le : s.nmem ≤ Config.memoryWords
  memwb_valid : valid s.memwb.instr = true
  memwb_not_jalr : opcodeOf s.memwb.instr ≠ .jalr
  wbend_valid : valid s.wbend.instr = true
  wbend_not_jalr : opcodeOf s.wbend.instr ≠ .jalr
  wbend_not_halt : opcodeOf s.wbend.instr ≠ .halt

/-! ### Runs -/

/-- `k` clock edges lead from `s` to the halted state `t` (47_pipeline_driver.md R151). -/
def HaltsIn (k : Nat) (s t : State) : Prop := Sys2Proof.core.run k s = .next t ∧ t.halted = true

/-- A run that is stopped by no fault and no refusal within `k` clock edges (60_exceptions.md R181). -/
def RunsClear (k : Nat) (s : State) : Prop := ∀ j, j ≤ k → ∃ t, Sys2Proof.core.run j s = .next t

/-! ### Dead fields (10_state.md R20) -/

/-- `IFID` with its dead field zeroed: `pcPlus1` when the instruction is not BEQ. -/
def IFID.live (l : IFID) : IFID :=
  { l with pcPlus1 := if opcodeOf l.instr = .beq then l.pcPlus1 else 0 }

/-- `IDEX` with its dead fields zeroed. -/
def IDEX.live (l : IDEX) : IDEX :=
  { l with
    pcPlus1 := if opcodeOf l.instr = .beq then l.pcPlus1 else 0
    readRegA := if srcA (opcodeOf l.instr) then l.readRegA else 0
    readRegB := if srcB (opcodeOf l.instr) then l.readRegB else 0
    offset :=
      if opcodeOf l.instr = .lw ∨ opcodeOf l.instr = .sw ∨ opcodeOf l.instr = .beq then l.offset else 0 }

/-- `EXMEM` with its dead fields zeroed. -/
def EXMEM.live (l : EXMEM) : EXMEM :=
  { l with
    branchTarget := if opcodeOf l.instr = .beq then l.branchTarget else 0
    aluResult :=
      if opcodeOf l.instr = .jalr ∨ opcodeOf l.instr = .halt ∨ opcodeOf l.instr = .noop then 0 else l.aluResult
    readRegB := if srcB (opcodeOf l.instr) then l.readRegB else 0 }

/-- `MEMWB` with its dead field zeroed: `writeData` when the opcode is not ADD, NOR or LW. -/
def MEMWB.live (l : MEMWB) : MEMWB :=
  { l with
    writeData := if isRFormat (opcodeOf l.instr) ∨ opcodeOf l.instr = .lw then l.writeData else 0 }

/-- A state with every dead field of 10_state.md R20 zeroed, the whole of `WBEND` among them: two states with the same
live part differ in nothing a claim may rest on. -/
def State.live (s : State) : State :=
  { s with
    ifid := s.ifid.live
    idex := s.idex.live
    exmem := s.exmem.live
    memwb := s.memwb.live
    wbend := { instr := 0, writeData := 0 } }

/-- An outcome of a cycle with the dead fields of its state zeroed. -/
def CycleOutcome.live : CycleOutcome → CycleOutcome
  | .next t => .next t.live
  | .halted k => .halted k
  | .fault r => .fault r
  | .refused r => .refused r

/-! ### Executed paths (70_reset_and_hazards.md R216, R217) -/

/-- One instruction of the executed path, and whether it is a BEQ that is taken. -/
structure Executed where
  instr : Instr
  taken : Bool
deriving DecidableEq, Repr

/-- Whether the sequential meaning of an instruction takes a branch (42_control.md R90). -/
def takenIn (i : Instr) (a : ArchState) : Bool :=
  match i with
  | .beq ra rb _ => a.branchTaken ra rb
  | .add _ _ _ => false
  | .nor _ _ _ => false
  | .lw _ _ _ => false
  | .sw _ _ _ => false
  | .jalr _ _ _ => false
  | .halt _ => false
  | .noop _ => false

/-- The executed path from `a`, oldest instruction first and the HALT last, with the state at the halt; nothing if the
sequential meaning faults, refuses or does not halt within `fuel` instructions. -/
def executedPath : Nat → ArchState → Option (List Executed × ArchState)
  | 0, _ => none
  | fuel + 1, a =>
    match decode (a.imem.read a.pc.toNat) with
    | .error _ => none
    | .ok i =>
      match seqStep a with
      | .next b => (executedPath fuel b).map fun (path, e) => ({ instr := i, taken := takenIn i a } :: path, e)
      | .halted b => some ([{ instr := i, taken := false }], b)
      | .fault _ => none
      | .refused _ => none

/-- The source registers of an instruction (45_forwarding.md R120). -/
def sourcesOf (i : Instr) : List Reg :=
  (if srcA i.opcode then [regA (encode i)] else []) ++ (if srcB i.opcode then [regB (encode i)] else [])

/-- R217: "An instruction writes `r` when it is an ADD or NOR with `dest = r` or a LW with `regB = r`." -/
def writesReg (i : Instr) (r : Reg) : Bool := aluWrites (encode i) r || loadWrites (encode i) r

/-- One source register of an instruction is safe behind a window of older ones, newest first: at most one of them writes
it, and an ADD or NOR that does is the newest (R217). -/
def safeSource (window : List Instr) (r : Reg) : Bool :=
  decide ((window.filter fun i => writesReg i r).length ≤ 1) &&
    (window.drop 1).all fun i => !aluWrites (encode i) r

/-- R217: every source register of every instruction is safe behind the up to three executed instructions before it, "not
looking back past a taken BEQ" (90_conflicts.md C8). `window` holds them, newest first. -/
def safePathFrom (window : List Instr) : List Executed → Bool
  | [] => true
  | e :: rest =>
    (sourcesOf e.instr).all (safeSource window) &&
      safePathFrom (if e.taken then [] else (e.instr :: window).take 3) rest

/-- A safe executed path (70_reset_and_hazards.md R217). -/
def safePath (path : List Executed) : Bool := safePathFrom [] path

/-- `L` of R216: places where an instruction directly follows a LW and the load-use predicate holds. -/
def loadUsePairs : List Executed → Nat
  | e :: f :: rest =>
    (if isLoadUseHazard (encode f.instr) (encode e.instr) then 1 else 0) + loadUsePairs (f :: rest)
  | [_] => 0
  | [] => 0

/-- `T` of R216: taken BEQs. -/
def takenBranches (path : List Executed) : Nat := (path.filter fun e => e.taken).length

/-- R216: `P + L + 3 * T + 3`. -/
def predictedCycles (path : List Executed) : Nat :=
  path.length + loadUsePairs path + 3 * takenBranches path + 3

end Sys2Proof.Machine
end

