-- ==== Sys2Proof/Certificates/Slice0/Obligations.lean ====
section
/-! DEFINITION. The statements for the provers, each with the rule of `spec/` it formalises or rests on. -/

open Sys2Proof Sys2Proof.Machine

/-! ### The codec -/

/-- 30_encoding.md R57: "decode(encode(x)) == x for all valid field ranges". -/
def Obligations.DecodeOfEncodeGivesTheInstruction : Prop :=
  ∀ i : Instr, i.wf = true → decode (encode i) = .ok i

/-- 30_encoding.md R54, R57, R59: no bit of a valid word is dropped by the decoder. -/
def Obligations.EncodeOfDecodeGivesTheWord : Prop :=
  ∀ (w : Word) (i : Instr), decode w = .ok i → i.wf = true ∧ encode i = w

/-- 30_encoding.md R58, decision D8, the fields as arithmetic on the word's number. -/
def Obligations.DecodeAcceptsExactlyTheValidWords : Prop :=
  ∀ w : Word, (∃ i, decode w = .ok i) ↔
    w.toNat / 2 ^ 25 = 0 ∧ (w.toNat / 2 ^ 22 % 8 ≤ 1 → w.toNat / 2 ^ 3 % 2 ^ 13 = 0)

/-- 30_encoding.md R54: the projections, as the arithmetic of 00_scope.md section 5; bits 31 to 25 take no part. -/
def Obligations.FieldProjectionsReadTheirBits : Prop :=
  ∀ w : Word,
    (opcodeBits (opcodeOf w)).toNat = w.toNat / 2 ^ 22 % 8 ∧ (regA w).toNat = w.toNat / 2 ^ 19 % 8 ∧
    (regB w).toNat = w.toNat / 2 ^ 16 % 8 ∧ (low16 w).toNat = w.toNat % 2 ^ 16 ∧
    (dest w).toNat = w.toNat % 8 ∧
    (sext16 (low16 w)).toInt =
      if w.toNat % 2 ^ 16 < 32768 then ((w.toNat % 2 ^ 16 : Nat) : Int) else (w.toNat % 2 ^ 16 : Nat) - 65536

/-- 30_encoding.md R57: `opcode * 2^22 + regA * 2^19 + regB * 2^16 + (field mod 2^16)`, for every instruction, with the opcode
numbers of R52; the unused bits of JALR, HALT and NOOP, 0 in R57 and free in R59, stand where R53 leaves them. -/
def Obligations.EncodeIsTheSumOfItsFields : Prop :=
  (∀ a b d : Reg,
    (encode (.add a b d)).toNat = 0 * 2 ^ 22 + a.toNat * 2 ^ 19 + b.toNat * 2 ^ 16 + d.toNat ∧
    (encode (.nor a b d)).toNat = 1 * 2 ^ 22 + a.toNat * 2 ^ 19 + b.toNat * 2 ^ 16 + d.toNat) ∧
  (∀ (a b : Reg) (offset : Int),
    ((encode (.lw a b offset)).toNat : Int) =
      2 * 2 ^ 22 + a.toNat * 2 ^ 19 + b.toNat * 2 ^ 16 + offset % 2 ^ 16 ∧
    ((encode (.sw a b offset)).toNat : Int) =
      3 * 2 ^ 22 + a.toNat * 2 ^ 19 + b.toNat * 2 ^ 16 + offset % 2 ^ 16 ∧
    ((encode (.beq a b offset)).toNat : Int) =
      4 * 2 ^ 22 + a.toNat * 2 ^ 19 + b.toNat * 2 ^ 16 + offset % 2 ^ 16) ∧
  (∀ (a b : Reg) (unused : Half),
    (encode (.jalr a b unused)).toNat = 5 * 2 ^ 22 + a.toNat * 2 ^ 19 + b.toNat * 2 ^ 16 + unused.toNat) ∧
  (∀ unused : BitVec 22,
    (encode (.halt unused)).toNat = 6 * 2 ^ 22 + unused.toNat ∧
    (encode (.noop unused)).toNat = 7 * 2 ^ 22 + unused.toNat)

/-- 30_encoding.md R52: "0=ADD,1=NOR,2=LW,3=SW,4=BEQ,5=JALR,6=HALT,7=NOOP", for the opcode field of any word; no value of the
field is unassigned. -/
def Obligations.OpcodeNumbersAreTheListed : Prop :=
  ∀ w : Word,
    (w.toNat / 2 ^ 22 % 8 = 0 ↔ opcodeOf w = .add) ∧ (w.toNat / 2 ^ 22 % 8 = 1 ↔ opcodeOf w = .nor) ∧
    (w.toNat / 2 ^ 22 % 8 = 2 ↔ opcodeOf w = .lw) ∧ (w.toNat / 2 ^ 22 % 8 = 3 ↔ opcodeOf w = .sw) ∧
    (w.toNat / 2 ^ 22 % 8 = 4 ↔ opcodeOf w = .beq) ∧ (w.toNat / 2 ^ 22 % 8 = 5 ↔ opcodeOf w = .jalr) ∧
    (w.toNat / 2 ^ 22 % 8 = 6 ↔ opcodeOf w = .halt) ∧ (w.toNat / 2 ^ 22 % 8 = 7 ↔ opcodeOf w = .noop)

/-- A few words written out from the encodings of 30_encoding.md section 6. -/
def Obligations.WrittenOutWordsDecode : Prop :=
  decodeTableWord 32 0b00000000000010010000000000000010 = some (.add 1 1 2) ∧
  decodeTableWord 32 0b00000000010010100000000000000011 = some (.nor 1 2 3) ∧
  decodeTableWord 32 0b00000000100000011111111111111111 = some (.lw 0 1 (-1)) ∧
  decodeTableWord 32 0b00000000110000010000000000000101 = some (.sw 0 1 5) ∧
  decodeTableWord 32 0b00000001000000001111111111111100 = some (.beq 0 0 (-4)) ∧
  decodeTableWord 32 0b00000001011001110000000000000000 = some (.jalr 4 7 0) ∧
  decodeTableWord 32 0b00000001100000000000000000000000 = some (.halt 0) ∧
  decodeTableWord 32 0b00000001110000000000000000000000 = some (.noop 0) ∧
  decodeTableWord 32 8 = none ∧ decodeTableWord 32 0x02000000 = none

/-! ### The step and what it runs -/

/-- 47_pipeline_driver.md R151, R155: a step runs the instruction decoded from the word in the MEM slot; a word that is none
faults; a halted machine stays as it is (the model's choice for the last clause, log entry 1). -/
def Obligations.StepRunsTheDecodedInstruction : Prop :=
  ∀ s : State,
    (s.halted = false → ∀ i, decode s.exmem.instr = .ok i → step s = exec i s) ∧
    (s.halted = false → ∀ e, decode s.exmem.instr = .error e → step s = .fault (.illegalInstruction s.exmem.instr)) ∧
    (s.halted = true → step s = .next s)

/-- The model's placing of an instruction (log entry 3): it is the one the next step runs, with the operands the registers
hold, and nothing but the `EXMEM` latch is changed. -/
def Obligations.PlacedWordIsTheOneRun : Prop :=
  ∀ (s : State) (nbits w : Nat) (i : Instr), s.halted = false → decodeTableWord nbits w = some i →
    step (s.withFetchWord nbits w) = exec i (s.withFetchWord nbits w) ∧
    (s.withFetchWord nbits w).setExmem s.exmem = s

/-- 47_pipeline_driver.md R151: "if the instruction sitting in the memory→writeback latch is HALT, stop the loop and report
the cycle counter"; nothing is written, and nothing else ends a run normally. -/
def Obligations.HaltCheckReportsTheCycleCounter : Prop :=
  ∀ (s : State) (k : Nat), cycle s = .halted k ↔ opcodeOf s.memwb.instr = .halt ∧ k = s.cycles

/-- 47_pipeline_driver.md R158, decision D19: a halted machine is halted for good. -/
def Obligations.HaltedMachineStaysAsItIs : Prop :=
  ∀ (k : Nat) (s : State), s.halted = true → Sys2Proof.core.run k s = .next s ∧ cycle s = .halted s.cycles

/-- 60_exceptions.md R181, R182: which outcome a cycle has, for every state: the halt check, then the conditions on the
instruction in MEM, then the fetch. -/
def Obligations.CycleOutcomesFollowTheStatedOrder : Prop :=
  ∀ s : State,
    let w := s.exmem.instr
    let memoryAccess := opcodeOf w = .lw ∨ opcodeOf w = .sw
    let addressed := memoryAccess → addressInRange s.exmem.aluResult = true
    let faulted := s.rawPolicy = .strict ∧ s.exmem.bad = true
    let fetchable := s.stalls = true ∨ addressInRange s.pc = true
    (s.halted = false → valid w = false → cycle s = .fault (.illegalInstruction w)) ∧
    (s.halted = false → valid w = true → opcodeOf w = .jalr → cycle s = .refused .jalrNotSpecified) ∧
    (s.halted = false → valid w = true → memoryAccess → addressInRange s.exmem.aluResult = false →
      cycle s = .fault (.dataAddressOutOfRange s.exmem.aluResult)) ∧
    (s.halted = false → valid w = true → opcodeOf w ≠ .jalr → addressed → faulted →
      cycle s = .fault .unforwardedHazard) ∧
    (s.halted = false → valid w = true → opcodeOf w ≠ .jalr → addressed → ¬ faulted → ¬ fetchable →
      cycle s = .fault (.fetchAddressOutOfRange s.pc)) ∧
    (s.halted = false → valid w = true → opcodeOf w ≠ .jalr → addressed → ¬ faulted → fetchable →
      ∃ t, cycle s = .next t)

/-! ### The invariant -/

/-- Every step keeps the invariant (20_memory.md R30, 47_pipeline_driver.md R151, R155, 43_system.md R100). -/
def Obligations.EveryStepKeepsTheInvariant : Prop :=
  ∀ s t : State, s.Inv → step s = .next t → t.Inv

/-- The reset state has the invariant (70_reset_and_hazards.md R200). -/
def Obligations.ResetHasTheInvariant : Prop := State.reset.Inv

/-- Every loaded state has the invariant (70_reset_and_hazards.md R200, R203). -/
def Obligations.LoadedStateHasTheInvariant : Prop :=
  ∀ (policy : RawPolicy) (reg0 : RegFile) (image : List Int) (s : State),
    loadImage policy reg0 image = .ok s → s.Inv

/-! ### Reset and load -/

/-- 70_reset_and_hazards.md R200, R203, R205: which images load, and what the loaded state holds. -/
def Obligations.LoadedStateHoldsTheImage : Prop :=
  ∀ (policy : RawPolicy) (reg0 : RegFile) (image : List Int),
    ((∃ s, loadImage policy reg0 image = .ok s) ↔
      image.length ≤ 65536 ∧ ∀ v ∈ image, -2147483648 ≤ v ∧ v ≤ 2147483647) ∧
    ∀ s, loadImage policy reg0 image = .ok s →
      (∀ a, s.imem.read a = wrap32 (image.getD a 0)) ∧ s.dmem = s.imem ∧ s.nmem = image.length ∧
      s.reg = reg0 ∧ s.pc = 0 ∧ s.cycles = 0 ∧ s.rawPolicy = policy ∧ s.Drained ∧
      s.wbend.instr = Config.noopInstr

/-! ### What each instruction does at the commit point: it completes, and its frame -/

/-- ADD and NOR (40_arith.md R70, R71): the ALU result goes to `MEMWB`; no memory word changes. -/
def Obligations.ArithmeticCommitsItsAluResult : Prop :=
  ∀ (a b d : Reg) (s : State), s.CycleClear → ∀ i, i = Instr.add a b d ∨ i = Instr.nor a b d →
    ∃ t, exec i s = .next t ∧ t.memwb = { instr := encode i, writeData := s.exmem.aluResult } ∧
      t.dmem = s.dmem ∧ s.CommonFrame t ∧ s.FlowsOn t ∧ t.exmem.readRegB = s.idex.readRegB

/-- LW (41_loadstore.md R80, 45_forwarding.md R124): the word at the address goes to `MEMWB`, and to the data of a SW behind
it that stores the loaded register; no memory word changes. -/
def Obligations.LoadCommitsTheWordItReads : Prop :=
  ∀ (a b : Reg) (offset : Int) (s : State), s.CycleClear → addressInRange s.exmem.aluResult = true →
    ∃ t, exec (.lw a b offset) s = .next t ∧
      t.memwb = { instr := encode (.lw a b offset), writeData := s.dmem.read s.exmem.aluResult.toNat } ∧
      t.dmem = s.dmem ∧ s.CommonFrame t ∧ s.FlowsOn t ∧
      t.exmem.readRegB =
        if opcodeOf s.idex.instr = .sw ∧ regB s.idex.instr = b then s.dmem.read s.exmem.aluResult.toNat
        else s.idex.readRegB

/-- SW (41_loadstore.md R81): one word of the data memory, at the address EX computed, and no other. -/
def Obligations.StoreCommitsOneWord : Prop :=
  ∀ (a b : Reg) (offset : Int) (s : State), s.CycleClear → addressInRange s.exmem.aluResult = true → s.dmem.wf →
    ∃ t, exec (.sw a b offset) s = .next t ∧ t.memwb.instr = encode (.sw a b offset) ∧
      t.dmem.read s.exmem.aluResult.toNat = s.exmem.readRegB ∧
      (∀ x, x ≠ s.exmem.aluResult.toNat → t.dmem.read x = s.dmem.read x) ∧
      s.CommonFrame t ∧ s.FlowsOn t ∧ t.exmem.readRegB = s.idex.readRegB

/-- LW and SW with an address outside 0 to 65535 (20_memory.md R35): the fault, before any state is written. -/
def Obligations.AccessOutsideTheMemoryFaults : Prop :=
  ∀ (a b : Reg) (offset : Int) (s : State), ¬ (0 ≤ s.exmem.aluResult.toInt ∧ s.exmem.aluResult.toInt ≤ 65535) →
    exec (.lw a b offset) s = .fault (.dataAddressOutOfRange s.exmem.aluResult) ∧
    exec (.sw a b offset) s = .fault (.dataAddressOutOfRange s.exmem.aluResult)

/-- A BEQ whose difference is 0 (46_branch_squash.md R141, R142, R143, R145): the pc takes the target as it is and the three
younger latches become bubbles, whether or not the detector stalls in the same cycle. -/
def Obligations.TakenBranchRedirectsAndSquashes : Prop :=
  ∀ (a b : Reg) (offset : Int) (s : State), s.CycleClear → s.exmem.aluResult = 0 →
    ∃ t, exec (.beq a b offset) s = .next t ∧ t.pc = s.exmem.branchTarget ∧ t.ifid = bubbleIfid ∧
      t.idex = bubbleIdex ∧ t.exmem = bubbleExmem ∧ t.memwb.instr = encode (.beq a b offset) ∧
      t.dmem = s.dmem ∧ s.CommonFrame t

/-- A BEQ whose difference is not 0 (46_branch_squash.md R144): "no redirection and no squash"; the cycle is the one a NOOP
in MEM would have had, but for the word in `MEMWB` (its `writeData` 0 and the dead fields of `EXMEM` are decision D15, log entry
8). -/
def Obligations.BranchNotTakenChangesNothingElse : Prop :=
  ∀ (a b : Reg) (offset : Int) (s : State), s.CycleClear → s.exmem.aluResult ≠ 0 →
    ∃ t, exec (.beq a b offset) s = .next t ∧ t.memwb = { instr := encode (.beq a b offset), writeData := 0 } ∧
      t.dmem = s.dmem ∧ s.CommonFrame t ∧ s.FlowsOn t ∧ t.exmem.readRegB = s.idex.readRegB ∧
      ∃ u, exec (.noop 0) s = .next u ∧ t = u.setMemwb t.memwb

/-- JALR (42_control.md R91, 60_exceptions.md R181): a committed JALR is refused, whatever the state. -/
def Obligations.JalrIsRefused : Prop :=
  ∀ (a b : Reg) (unused : Half) (s : State), exec (.jalr a b unused) s = .refused .jalrNotSpecified

/-- HALT (43_system.md R100): it moves to `MEMWB` and the next cycle's halt check reports the count; no register write of
its own, no memory word changes. -/
def Obligations.HaltCommitsAndEndsTheRun : Prop :=
  ∀ (unused : BitVec 22) (s : State), s.CycleClear →
    ∃ t, exec (.halt unused) s = .next t ∧ t.memwb.instr = encode (.halt unused) ∧
      cycle t = .halted (s.cycles + 1) ∧ t.dmem = s.dmem ∧ s.CommonFrame t ∧ s.FlowsOn t

/-- NOOP (43_system.md R101): it moves on and nothing else changes; the run goes on. -/
def Obligations.NoopCommitsAndChangesNothing : Prop :=
  ∀ (unused : BitVec 22) (s : State), s.CycleClear →
    ∃ t, exec (.noop unused) s = .next t ∧ t.memwb.instr = encode (.noop unused) ∧ t.halted = false ∧
      t.dmem = s.dmem ∧ s.CommonFrame t ∧ s.FlowsOn t

/-! ### What each instruction does from EX to its last effect -/

/-- ADD and NOR in EX (40_arith.md R70, R71, R72): three cycles later the destination register, register 0 like any other,
holds the wrapped sum, or the complement of the bitwise OR, of the operands, and no other register is written. -/
def Obligations.ArithmeticResultReachesItsRegister : Prop :=
  ∀ (a b d : Reg) (s t u v : State), s.takesBranch = false → s.Cycles t → t.Cycles u → u.Cycles v →
    (s.idex.instr = encode (.add a b d) →
      v.reg.read d = wrap32 (s.idex.readRegA.toInt + s.idex.readRegB.toInt)) ∧
    (s.idex.instr = encode (.nor a b d) →
      (v.reg.read d).toInt = -((s.idex.readRegA ||| s.idex.readRegB).toInt) - 1) ∧
    (s.idex.instr = encode (.add a b d) ∨ s.idex.instr = encode (.nor a b d) →
      (∀ r, r ≠ d → v.reg.read r = u.reg.read r) ∧ u.dmem = t.dmem)

/-- LW in EX (41_loadstore.md R80, R82): three cycles later its second register, and no other, holds the word the data memory
held, in the cycle between, at base plus offset. -/
def Obligations.LoadedWordReachesItsRegister : Prop :=
  ∀ (a b : Reg) (offset : Int) (s t u v : State), s.takesBranch = false → s.idex.instr = encode (.lw a b offset) →
    s.Cycles t → t.Cycles u → u.Cycles v →
      v.reg.read b = t.dmem.read (wrap32 (s.idex.readRegA.toInt + s.idex.offset.toInt)).toNat ∧
      (∀ r, r ≠ b → v.reg.read r = u.reg.read r) ∧ u.dmem = t.dmem

/-- SW in EX (41_loadstore.md R81, R82, 45_forwarding.md R124): two cycles later the word at base plus offset, and no other,
is the store data: the `regB` operand, or the word a LW just ahead of it loads into its data register. -/
def Obligations.StoreReachesTheMemory : Prop :=
  ∀ (a b : Reg) (offset : Int) (s t u : State), s.Inv → s.takesBranch = false →
    s.idex.instr = encode (.sw a b offset) → s.Cycles t → t.Cycles u →
      ∀ x, u.dmem.read x =
        if x = (wrap32 (s.idex.readRegA.toInt + s.idex.offset.toInt)).toNat then
          if loadWrites s.exmem.instr b then s.dmem.read s.exmem.aluResult.toNat else s.idex.readRegB
        else t.dmem.read x

/-- BEQ in EX (42_control.md R90, 46_branch_squash.md R140, R141, R142, 40_arith.md R72): two cycles later the pc is the
target if the operands were equal, and only then; otherwise it went on as without the BEQ. -/
def Obligations.BranchComparesItsOperands : Prop :=
  ∀ (a b : Reg) (offset : Int) (s t u : State), s.takesBranch = false → s.idex.instr = encode (.beq a b offset) →
    s.Cycles t → t.Cycles u →
      u.pc =
        if s.idex.readRegA = s.idex.readRegB then wrap32 (s.idex.pcPlus1.toInt + s.idex.offset.toInt)
        else if t.stalls then t.pc else t.pc + 1

/-- A lone instruction does what its sequential meaning says (files 40 to 43; 70_reset_and_hazards.md R217 for one
instruction): fetched into a drained pipeline it has changed the data memory after four cycles, redirected the pc if it is a
taken BEQ, and changed the registers after five. -/
def Obligations.LoneInstructionMeetsItsSequentialMeaning : Prop :=
  ∀ (i : Instr) (s0 s1 s2 s3 s4 s5 : State), i.wf = true → s0.Drained → s0.imem.read s0.pc.toNat = encode i →
    s0.Cycles s1 → s1.Cycles s2 → s2.Cycles s3 → s3.Cycles s4 → s4.Cycles s5 →
      ∃ a, seqExec i s0.arch = .next a ∧ s4.dmem = a.dmem ∧ s5.reg = a.reg ∧
        (takenIn i s0.arch = true → s4.pc = a.pc)

/-- HALT (43_system.md R100, 70_reset_and_hazards.md R219): a HALT fetched and not squashed is reported with the count of its
fetch cycle plus 4; it is never stalled. -/
def Obligations.HaltIsReportedFourCyclesAfterItsFetch : Prop :=
  ∀ (unused : BitVec 22) (s0 s1 s2 s3 s4 : State), s0.imem.read s0.pc.toNat = encode (.halt unused) →
    s0.stalls = false → s0.takesBranch = false → s1.takesBranch = false → s2.takesBranch = false →
    s0.Cycles s1 → s1.Cycles s2 → s2.Cycles s3 → s3.Cycles s4 → cycle s4 = .halted (s0.cycles + 4)

/-! ### Rules over every cycle, whatever instruction it runs -/

/-- Registers are written by WB only, `imem` and the parameters by nothing, `cycles` counts (10_state.md R11, R13, R18,
20_memory.md R31, R43, 47_pipeline_driver.md R156, R157). -/
def Obligations.EveryCycleHasTheCommonFrame : Prop :=
  ∀ s t : State, s.Cycles t → s.CommonFrame t

/-- 20_memory.md R31, R38: the data memory changes at the address of a SW in MEM and nowhere else. -/
def Obligations.OnlyAStoreInMemChangesDataMemory : Prop :=
  ∀ s t : State, s.Cycles t → s.dmem.wf → ∀ x,
    t.dmem.read x =
      if opcodeOf s.exmem.instr = .sw ∧ x = s.exmem.aluResult.toNat then s.exmem.readRegB else s.dmem.read x

/-- 10_state.md R12: the pc takes one of three values. -/
def Obligations.PcTakesOneOfThreeValues : Prop :=
  ∀ s t : State, s.Cycles t →
    t.pc = if s.takesBranch then s.exmem.branchTarget else if s.stalls then s.pc else s.pc + 1

/-- 47_pipeline_driver.md R152: Fetch, but for the squash of 46_branch_squash.md R143. -/
def Obligations.FetchCopiesTheWordAtThePc : Prop :=
  ∀ s t : State, s.Cycles t → s.takesBranch = false →
    (s.stalls = false →
      (0 ≤ s.pc.toInt ∧ s.pc.toInt ≤ 65535) ∧ t.ifid.instr = s.imem.read s.pc.toNat ∧
      t.ifid.pcPlus1 = wrap32 (s.pc.toInt + 1) ∧ t.pc = wrap32 (s.pc.toInt + 1)) ∧
    (s.stalls = true → t.ifid = s.ifid ∧ t.pc = s.pc)

/-- 44_hazard_detector.md R110: the predicate, on the fields of two raw words. -/
def Obligations.LoadUseHazardIsThePredicate : Prop :=
  ∀ younger older : Word,
    (isLoadUseHazard younger older = true ↔
      older.toNat / 2 ^ 22 % 8 = 2 ∧
        ((younger.toNat / 2 ^ 22 % 8 ∈ [0, 1, 4] ∧
            (younger.toNat / 2 ^ 19 % 8 = older.toNat / 2 ^ 16 % 8 ∨
              younger.toNat / 2 ^ 16 % 8 = older.toNat / 2 ^ 16 % 8)) ∨
          (younger.toNat / 2 ^ 22 % 8 ∈ [2, 3] ∧ younger.toNat / 2 ^ 19 % 8 = older.toNat / 2 ^ 16 % 8))) ∧
    ∀ s : State, s.ifid.instr = younger → s.idex.instr = older → s.stalls = isLoadUseHazard younger older

/-- 44_hazard_detector.md R111: on a load-use hazard the pc and the fetch latch are held and a bubble enters `IDEX`; `imem` is
not read and no fetch fault can occur; EX, MEM and WB go on; a taken BEQ overrides all three (46_branch_squash.md R143, R145; the zero fields of the squash are
decision D14, log entry 7). -/
def Obligations.StallHoldsFetchAndInsertsABubble : Prop :=
  ∀ s : State, s.stalls = true →
    (∀ p, cycle s ≠ .fault (.fetchAddressOutOfRange p)) ∧
    ∀ t, s.Cycles t →
      s.CommonFrame t ∧ t.memwb.instr = s.exmem.instr ∧
      (∀ m : Memory, cycle { s with imem := m } = .next { t with imem := m }) ∧
      (s.takesBranch = false →
        t.pc = s.pc ∧ t.ifid = s.ifid ∧ t.idex = bubbleIdex ∧ t.exmem.instr = s.idex.instr ∧
          t.exmem.aluResult = s.idex.readRegA + s.idex.offset) ∧
      (s.takesBranch = true →
        t.pc = s.exmem.branchTarget ∧ t.ifid = bubbleIfid ∧ t.idex = bubbleIdex ∧ t.exmem = bubbleExmem)

/-- 44_hazard_detector.md R112: a stall lasts one cycle. -/
def Obligations.StallLastsOneCycle : Prop :=
  ∀ s t : State, s.Cycles t → s.stalls = true → t.stalls = false

/-- 45_forwarding.md R122, R123, R125, R126, R129, 70_reset_and_hazards.md R212, R213: the operand of an instruction leaving ID
is that of the oldest matching producer the network forwards from, a LW in WB, a LW in MEM, an ADD or NOR in EX, else the old
register value. -/
def Obligations.OperandComesFromTheLastMatchingPath : Prop :=
  ∀ s t : State, s.Cycles t → s.stalls = false → s.takesBranch = false →
    let operand := fun r =>
      if loadWrites s.memwb.instr r then s.memwb.writeData
      else if loadWrites s.exmem.instr r then s.dmem.read s.exmem.aluResult.toNat
      else if aluWrites s.idex.instr r then aluResult (opcodeOf s.idex.instr) s.idex
      else s.reg.read r
    (srcA (opcodeOf s.ifid.instr) = true → t.idex.readRegA = operand (regA s.ifid.instr)) ∧
    (srcB (opcodeOf s.ifid.instr) = true → t.idex.readRegB = operand (regB s.ifid.instr))

/-- 70_reset_and_hazards.md R214, 45_forwarding.md R129: an operand whose ghost bit is not set holds the value of the youngest
instruction ahead that writes its register, but for the store data of a SW right behind the LW that loads it, which the
override mends in the next cycle (R124). -/
def Obligations.OperandNotMarkedBadIsTheYoungestValue : Prop :=
  ∀ s t : State, s.Cycles t → s.stalls = false → s.takesBranch = false →
    (srcA (opcodeOf s.ifid.instr) = true → t.idex.badA = false →
      t.idex.readRegA = s.youngestValue (regA s.ifid.instr)) ∧
    (srcB (opcodeOf s.ifid.instr) = true → t.idex.badB = false →
      ¬ (opcodeOf s.ifid.instr = .sw ∧ loadWrites s.idex.instr (regB s.ifid.instr) = true) →
      t.idex.readRegB = s.youngestValue (regB s.ifid.instr))

/-- 45_forwarding.md R124: the store-data override, and that nothing else reaches `EXMEM.readRegB`; otherwise the latch has
what EX writes (47_pipeline_driver.md R154; its dead fields are decision D15, log entry 8). -/
def Obligations.StoreDataOverrideReachesTheStore : Prop :=
  ∀ s t : State, s.Cycles t → s.takesBranch = false →
    t.exmem.readRegB =
        (if s.overridesStoreData then s.dmem.read s.exmem.aluResult.toNat else s.idex.readRegB) ∧
      t.exmem.aluResult = aluResult (opcodeOf s.idex.instr) s.idex

/-- 70_reset_and_hazards.md R214: "the same listing computes the same values": a cycle that `strict` commits is the cycle of
`literal`, and one whose instruction in MEM is not marked has the same outcome. -/
def Obligations.StrictPolicyChangesNoValue : Prop :=
  ∀ s t : State,
    (cycle { s with rawPolicy := .strict } = .next t →
      cycle { s with rawPolicy := .literal } = .next { t with rawPolicy := .literal }) ∧
    (s.exmem.bad = false → cycle { s with rawPolicy := .literal } = .next { t with rawPolicy := .literal } →
      cycle { s with rawPolicy := .strict } = .next { t with rawPolicy := .strict })

/-- 10_state.md R20: dead fields reach nothing but dead fields: a cycle of a state and of its live part have the same outcome
but for dead fields. -/
def Obligations.DeadFieldsReachOnlyDeadFields : Prop :=
  ∀ s : State, (cycle s).live = (cycle s.live).live

/-- 46_branch_squash.md R143, R147: the three words behind a taken BEQ, those in EX and ID and the one IF fetches in that
cycle, leave nothing: with any others in the two latches that let the cycle be committed, and any contents of `imem`, the next
state is the same (but for `imem`, which no cycle changes). -/
def Obligations.ShadowOfATakenBranchLeavesNothing : Prop :=
  ∀ (s t : State) (younger : IFID) (older : IDEX), s.takesBranch = true → s.Cycles t →
    ((s.setIfid younger).setIdex older).CycleClear → ∀ m : Memory,
      cycle { (s.setIfid younger).setIdex older with imem := m } = .next { t with imem := m }

/-! ### Whole runs -/

/-- 70_reset_and_hazards.md R217, R216: a safe run that no fault stops halts, with the registers and the data memory of the
sequential meaning, after the predicted number of cycles; and so it does under `strict`, since "a safe run never has a `bad`
operand". -/
def Obligations.SafeRunsComputeTheSequentialResult : Prop :=
  ∀ (reg0 : RegFile) (image : List Int) (s : State) (fuel : Nat) (path : List Executed) (last : ArchState),
    loadImage .literal reg0 image = .ok s → executedPath fuel s.arch = some (path, last) → safePath path = true →
    RunsClear (predictedCycles path) s →
    ∀ policy : RawPolicy, ∃ t, HaltsIn (predictedCycles path) { s with rawPolicy := policy } t ∧
      t.reg = last.reg ∧ t.dmem = last.dmem ∧ t.cycles = predictedCycles path
end

