-- ==== Sys2Proof/Laws/Codec.lean ====
section
/-! SUPPORT. What the field projections of 30_encoding.md R54 read from an encoded word, and the small facts of the
codec. -/

namespace Sys2Proof

/-- Every 3-bit number is the number of its opcode (30_encoding.md R52). -/
@[simp] theorem opcodeBits_opcodeOfBits (b : BitVec 3) : opcodeBits (opcodeOfBits b) = b := by
  revert b; decide

/-- An opcode's number names it (30_encoding.md R52). -/
@[simp] theorem opcodeOfBits_opcodeBits (op : Opcode) : opcodeOfBits (opcodeBits op) = op := by
  cases op <;> decide

/-- Fields above the low part of a word laid out side by side. -/
theorem extract_above {v w : Nat} (x : BitVec v) (y : BitVec w) (start len : Nat) (h : w ≤ start) :
    (x ++ y).extractLsb' start len = x.extractLsb' (start - w) len :=
  BitVec.extractLsb'_append_eq_of_le h

/-- Fields inside the low part of a word laid out side by side. -/
theorem extract_below {v w : Nat} (x : BitVec v) (y : BitVec w) (start len : Nat) (h : start + len ≤ w) :
    (x ++ y).extractLsb' start len = y.extractLsb' start len :=
  BitVec.extractLsb'_append_eq_of_add_le h

variable (op : Opcode) (a b d : Reg) (low : Half) (u : BitVec 22)

/-- Bits 24 to 22 of an encoded word are the opcode's number. -/
theorem opcodeField_encodeFields : (encodeFields op a b low).extractLsb' 22 3 = opcodeBits op :=
  (extract_above (0#7 ++ opcodeBits op ++ a ++ b) low 22 3 (by decide)).trans <|
    (extract_above (0#7 ++ opcodeBits op ++ a) b 6 3 (by decide)).trans <|
      (extract_above (0#7 ++ opcodeBits op) a 3 3 (by decide)).trans <|
        (extract_below 0#7 (opcodeBits op) 0 3 (by decide)).trans BitVec.extractLsb'_eq_self

@[simp] theorem opcodeOf_encodeFields : opcodeOf (encodeFields op a b low) = op := by
  simp [opcodeOf, opcodeField_encodeFields]

@[simp] theorem regA_encodeFields : regA (encodeFields op a b low) = a :=
  (extract_above (0#7 ++ opcodeBits op ++ a ++ b) low 19 3 (by decide)).trans <|
    (extract_above (0#7 ++ opcodeBits op ++ a) b 3 3 (by decide)).trans <|
      (extract_below (0#7 ++ opcodeBits op) a 0 3 (by decide)).trans BitVec.extractLsb'_eq_self

@[simp] theorem regB_encodeFields : regB (encodeFields op a b low) = b :=
  (extract_above (0#7 ++ opcodeBits op ++ a ++ b) low 16 3 (by decide)).trans <|
    (extract_below (0#7 ++ opcodeBits op ++ a) b 0 3 (by decide)).trans BitVec.extractLsb'_eq_self

@[simp] theorem low16_encodeFields : low16 (encodeFields op a b low) = low :=
  (extract_below (0#7 ++ opcodeBits op ++ a ++ b) low 0 16 (by decide)).trans BitVec.extractLsb'_eq_self

@[simp] theorem highBits_encodeFields : highBits (encodeFields op a b low) = 0#7 :=
  (extract_above (0#7 ++ opcodeBits op ++ a ++ b) low 25 7 (by decide)).trans <|
    (extract_above (0#7 ++ opcodeBits op ++ a) b 9 7 (by decide)).trans <|
      (extract_above (0#7 ++ opcodeBits op) a 6 7 (by decide)).trans <|
        (extract_above 0#7 (opcodeBits op) 3 7 (by decide)).trans BitVec.extractLsb'_eq_self

@[simp] theorem dest_encodeFields : dest (encodeFields op a b (destBits d)) = d :=
  (extract_below (0#7 ++ opcodeBits op ++ a ++ b) (destBits d) 0 3 (by decide)).trans <|
    (extract_below 0#13 d 0 3 (by decide)).trans BitVec.extractLsb'_eq_self

@[simp] theorem destPadding_encodeFields : destPadding (encodeFields op a b (destBits d)) = 0#13 :=
  (extract_below (0#7 ++ opcodeBits op ++ a ++ b) (destBits d) 3 13 (by decide)).trans <|
    (extract_above 0#13 d 3 13 (by decide)).trans BitVec.extractLsb'_eq_self

/-- Bits 24 to 22 of an encoded HALT or NOOP are the opcode's number. -/
theorem opcodeField_encodeUnused : (encodeUnused op u).extractLsb' 22 3 = opcodeBits op :=
  (extract_above (0#7 ++ opcodeBits op) u 22 3 (by decide)).trans <|
    (extract_below 0#7 (opcodeBits op) 0 3 (by decide)).trans BitVec.extractLsb'_eq_self

@[simp] theorem opcodeOf_encodeUnused : opcodeOf (encodeUnused op u) = op := by
  simp [opcodeOf, opcodeField_encodeUnused]

@[simp] theorem highBits_encodeUnused : highBits (encodeUnused op u) = 0#7 :=
  (extract_above (0#7 ++ opcodeBits op) u 25 7 (by decide)).trans <|
    (extract_above 0#7 (opcodeBits op) 3 7 (by decide)).trans BitVec.extractLsb'_eq_self

@[simp] theorem unusedBits_encodeUnused : (encodeUnused op u).extractLsb' 0 22 = u :=
  (extract_below (0#7 ++ opcodeBits op) u 0 22 (by decide)).trans BitVec.extractLsb'_eq_self

/-- The word of an empty latch is a NOOP (30_encoding.md R60). -/
@[simp] theorem opcodeOf_noopInstr : opcodeOf Config.noopInstr = .noop := by decide

/-- The word of an empty latch is a valid instruction (30_encoding.md R60). -/
@[simp] theorem valid_noopInstr : valid Config.noopInstr = true := by decide

/-- The decoder's two refusals and its one answer (30_encoding.md R58). -/
theorem decode_cases (w : Word) :
    (highBits w ≠ 0#7 ∧ decode w = .error .highBitsNotZero) ∨
    (highBits w = 0#7 ∧ isRFormat (opcodeOf w) = true ∧ destPadding w ≠ 0#13 ∧
      decode w = .error .destPaddingNotZero) ∨
    (highBits w = 0#7 ∧ (isRFormat (opcodeOf w) = true → destPadding w = 0#13) ∧ decode w = .ok (fieldsOf w)) := by
  unfold decode
  by_cases h1 : highBits w = 0#7 <;> by_cases h2 : isRFormat (opcodeOf w) = true <;>
    by_cases h3 : destPadding w = 0#13 <;> simp [h1, h2, h3]

/-- The instruction a word's fields give has the word's opcode. -/
@[simp] theorem opcode_fieldsOf (w : Word) : (fieldsOf w).opcode = opcodeOf w := by
  unfold fieldsOf
  cases h : opcodeOf w <;> rfl

end Sys2Proof
end

