-- ==== Sys2Proof/Laws/State.lean ====
section
/-! SUPPORT. One lemma for each field of State under each write to the state under construction, and the read-after-write
laws of the register file. -/

namespace Sys2Proof.Machine

variable (n : State)

/-! ### `setPc` -/

@[simp] theorem State.setPc_pc (v : Word) : (n.setPc v).pc = v := rfl
@[simp] theorem State.setPc_reg (v : Word) : (n.setPc v).reg = n.reg := rfl
@[simp] theorem State.setPc_imem (v : Word) : (n.setPc v).imem = n.imem := rfl
@[simp] theorem State.setPc_dmem (v : Word) : (n.setPc v).dmem = n.dmem := rfl
@[simp] theorem State.setPc_nmem (v : Word) : (n.setPc v).nmem = n.nmem := rfl
@[simp] theorem State.setPc_ifid (v : Word) : (n.setPc v).ifid = n.ifid := rfl
@[simp] theorem State.setPc_idex (v : Word) : (n.setPc v).idex = n.idex := rfl
@[simp] theorem State.setPc_exmem (v : Word) : (n.setPc v).exmem = n.exmem := rfl
@[simp] theorem State.setPc_memwb (v : Word) : (n.setPc v).memwb = n.memwb := rfl
@[simp] theorem State.setPc_wbend (v : Word) : (n.setPc v).wbend = n.wbend := rfl
@[simp] theorem State.setPc_cycles (v : Word) : (n.setPc v).cycles = n.cycles := rfl
@[simp] theorem State.setPc_rawPolicy (v : Word) : (n.setPc v).rawPolicy = n.rawPolicy := rfl

/-! ### `setReg` -/

@[simp] theorem State.setReg_pc (v : RegFile) : (n.setReg v).pc = n.pc := rfl
@[simp] theorem State.setReg_reg (v : RegFile) : (n.setReg v).reg = v := rfl
@[simp] theorem State.setReg_imem (v : RegFile) : (n.setReg v).imem = n.imem := rfl
@[simp] theorem State.setReg_dmem (v : RegFile) : (n.setReg v).dmem = n.dmem := rfl
@[simp] theorem State.setReg_nmem (v : RegFile) : (n.setReg v).nmem = n.nmem := rfl
@[simp] theorem State.setReg_ifid (v : RegFile) : (n.setReg v).ifid = n.ifid := rfl
@[simp] theorem State.setReg_idex (v : RegFile) : (n.setReg v).idex = n.idex := rfl
@[simp] theorem State.setReg_exmem (v : RegFile) : (n.setReg v).exmem = n.exmem := rfl
@[simp] theorem State.setReg_memwb (v : RegFile) : (n.setReg v).memwb = n.memwb := rfl
@[simp] theorem State.setReg_wbend (v : RegFile) : (n.setReg v).wbend = n.wbend := rfl
@[simp] theorem State.setReg_cycles (v : RegFile) : (n.setReg v).cycles = n.cycles := rfl
@[simp] theorem State.setReg_rawPolicy (v : RegFile) : (n.setReg v).rawPolicy = n.rawPolicy := rfl

/-! ### `setDmem` -/

@[simp] theorem State.setDmem_pc (v : Memory) : (n.setDmem v).pc = n.pc := rfl
@[simp] theorem State.setDmem_reg (v : Memory) : (n.setDmem v).reg = n.reg := rfl
@[simp] theorem State.setDmem_imem (v : Memory) : (n.setDmem v).imem = n.imem := rfl
@[simp] theorem State.setDmem_dmem (v : Memory) : (n.setDmem v).dmem = v := rfl
@[simp] theorem State.setDmem_nmem (v : Memory) : (n.setDmem v).nmem = n.nmem := rfl
@[simp] theorem State.setDmem_ifid (v : Memory) : (n.setDmem v).ifid = n.ifid := rfl
@[simp] theorem State.setDmem_idex (v : Memory) : (n.setDmem v).idex = n.idex := rfl
@[simp] theorem State.setDmem_exmem (v : Memory) : (n.setDmem v).exmem = n.exmem := rfl
@[simp] theorem State.setDmem_memwb (v : Memory) : (n.setDmem v).memwb = n.memwb := rfl
@[simp] theorem State.setDmem_wbend (v : Memory) : (n.setDmem v).wbend = n.wbend := rfl
@[simp] theorem State.setDmem_cycles (v : Memory) : (n.setDmem v).cycles = n.cycles := rfl
@[simp] theorem State.setDmem_rawPolicy (v : Memory) : (n.setDmem v).rawPolicy = n.rawPolicy := rfl

/-! ### `setIfid` -/

@[simp] theorem State.setIfid_pc (v : IFID) : (n.setIfid v).pc = n.pc := rfl
@[simp] theorem State.setIfid_reg (v : IFID) : (n.setIfid v).reg = n.reg := rfl
@[simp] theorem State.setIfid_imem (v : IFID) : (n.setIfid v).imem = n.imem := rfl
@[simp] theorem State.setIfid_dmem (v : IFID) : (n.setIfid v).dmem = n.dmem := rfl
@[simp] theorem State.setIfid_nmem (v : IFID) : (n.setIfid v).nmem = n.nmem := rfl
@[simp] theorem State.setIfid_ifid (v : IFID) : (n.setIfid v).ifid = v := rfl
@[simp] theorem State.setIfid_idex (v : IFID) : (n.setIfid v).idex = n.idex := rfl
@[simp] theorem State.setIfid_exmem (v : IFID) : (n.setIfid v).exmem = n.exmem := rfl
@[simp] theorem State.setIfid_memwb (v : IFID) : (n.setIfid v).memwb = n.memwb := rfl
@[simp] theorem State.setIfid_wbend (v : IFID) : (n.setIfid v).wbend = n.wbend := rfl
@[simp] theorem State.setIfid_cycles (v : IFID) : (n.setIfid v).cycles = n.cycles := rfl
@[simp] theorem State.setIfid_rawPolicy (v : IFID) : (n.setIfid v).rawPolicy = n.rawPolicy := rfl

/-! ### `setIdex` -/

@[simp] theorem State.setIdex_pc (v : IDEX) : (n.setIdex v).pc = n.pc := rfl
@[simp] theorem State.setIdex_reg (v : IDEX) : (n.setIdex v).reg = n.reg := rfl
@[simp] theorem State.setIdex_imem (v : IDEX) : (n.setIdex v).imem = n.imem := rfl
@[simp] theorem State.setIdex_dmem (v : IDEX) : (n.setIdex v).dmem = n.dmem := rfl
@[simp] theorem State.setIdex_nmem (v : IDEX) : (n.setIdex v).nmem = n.nmem := rfl
@[simp] theorem State.setIdex_ifid (v : IDEX) : (n.setIdex v).ifid = n.ifid := rfl
@[simp] theorem State.setIdex_idex (v : IDEX) : (n.setIdex v).idex = v := rfl
@[simp] theorem State.setIdex_exmem (v : IDEX) : (n.setIdex v).exmem = n.exmem := rfl
@[simp] theorem State.setIdex_memwb (v : IDEX) : (n.setIdex v).memwb = n.memwb := rfl
@[simp] theorem State.setIdex_wbend (v : IDEX) : (n.setIdex v).wbend = n.wbend := rfl
@[simp] theorem State.setIdex_cycles (v : IDEX) : (n.setIdex v).cycles = n.cycles := rfl
@[simp] theorem State.setIdex_rawPolicy (v : IDEX) : (n.setIdex v).rawPolicy = n.rawPolicy := rfl

/-! ### `setExmem` -/

@[simp] theorem State.setExmem_pc (v : EXMEM) : (n.setExmem v).pc = n.pc := rfl
@[simp] theorem State.setExmem_reg (v : EXMEM) : (n.setExmem v).reg = n.reg := rfl
@[simp] theorem State.setExmem_imem (v : EXMEM) : (n.setExmem v).imem = n.imem := rfl
@[simp] theorem State.setExmem_dmem (v : EXMEM) : (n.setExmem v).dmem = n.dmem := rfl
@[simp] theorem State.setExmem_nmem (v : EXMEM) : (n.setExmem v).nmem = n.nmem := rfl
@[simp] theorem State.setExmem_ifid (v : EXMEM) : (n.setExmem v).ifid = n.ifid := rfl
@[simp] theorem State.setExmem_idex (v : EXMEM) : (n.setExmem v).idex = n.idex := rfl
@[simp] theorem State.setExmem_exmem (v : EXMEM) : (n.setExmem v).exmem = v := rfl
@[simp] theorem State.setExmem_memwb (v : EXMEM) : (n.setExmem v).memwb = n.memwb := rfl
@[simp] theorem State.setExmem_wbend (v : EXMEM) : (n.setExmem v).wbend = n.wbend := rfl
@[simp] theorem State.setExmem_cycles (v : EXMEM) : (n.setExmem v).cycles = n.cycles := rfl
@[simp] theorem State.setExmem_rawPolicy (v : EXMEM) : (n.setExmem v).rawPolicy = n.rawPolicy := rfl

/-! ### `setMemwb` -/

@[simp] theorem State.setMemwb_pc (v : MEMWB) : (n.setMemwb v).pc = n.pc := rfl
@[simp] theorem State.setMemwb_reg (v : MEMWB) : (n.setMemwb v).reg = n.reg := rfl
@[simp] theorem State.setMemwb_imem (v : MEMWB) : (n.setMemwb v).imem = n.imem := rfl
@[simp] theorem State.setMemwb_dmem (v : MEMWB) : (n.setMemwb v).dmem = n.dmem := rfl
@[simp] theorem State.setMemwb_nmem (v : MEMWB) : (n.setMemwb v).nmem = n.nmem := rfl
@[simp] theorem State.setMemwb_ifid (v : MEMWB) : (n.setMemwb v).ifid = n.ifid := rfl
@[simp] theorem State.setMemwb_idex (v : MEMWB) : (n.setMemwb v).idex = n.idex := rfl
@[simp] theorem State.setMemwb_exmem (v : MEMWB) : (n.setMemwb v).exmem = n.exmem := rfl
@[simp] theorem State.setMemwb_memwb (v : MEMWB) : (n.setMemwb v).memwb = v := rfl
@[simp] theorem State.setMemwb_wbend (v : MEMWB) : (n.setMemwb v).wbend = n.wbend := rfl
@[simp] theorem State.setMemwb_cycles (v : MEMWB) : (n.setMemwb v).cycles = n.cycles := rfl
@[simp] theorem State.setMemwb_rawPolicy (v : MEMWB) : (n.setMemwb v).rawPolicy = n.rawPolicy := rfl

/-! ### `setWbend` -/

@[simp] theorem State.setWbend_pc (v : WBEND) : (n.setWbend v).pc = n.pc := rfl
@[simp] theorem State.setWbend_reg (v : WBEND) : (n.setWbend v).reg = n.reg := rfl
@[simp] theorem State.setWbend_imem (v : WBEND) : (n.setWbend v).imem = n.imem := rfl
@[simp] theorem State.setWbend_dmem (v : WBEND) : (n.setWbend v).dmem = n.dmem := rfl
@[simp] theorem State.setWbend_nmem (v : WBEND) : (n.setWbend v).nmem = n.nmem := rfl
@[simp] theorem State.setWbend_ifid (v : WBEND) : (n.setWbend v).ifid = n.ifid := rfl
@[simp] theorem State.setWbend_idex (v : WBEND) : (n.setWbend v).idex = n.idex := rfl
@[simp] theorem State.setWbend_exmem (v : WBEND) : (n.setWbend v).exmem = n.exmem := rfl
@[simp] theorem State.setWbend_memwb (v : WBEND) : (n.setWbend v).memwb = n.memwb := rfl
@[simp] theorem State.setWbend_wbend (v : WBEND) : (n.setWbend v).wbend = v := rfl
@[simp] theorem State.setWbend_cycles (v : WBEND) : (n.setWbend v).cycles = n.cycles := rfl
@[simp] theorem State.setWbend_rawPolicy (v : WBEND) : (n.setWbend v).rawPolicy = n.rawPolicy := rfl

/-! ### `setCycles` -/

@[simp] theorem State.setCycles_pc (v : Nat) : (n.setCycles v).pc = n.pc := rfl
@[simp] theorem State.setCycles_reg (v : Nat) : (n.setCycles v).reg = n.reg := rfl
@[simp] theorem State.setCycles_imem (v : Nat) : (n.setCycles v).imem = n.imem := rfl
@[simp] theorem State.setCycles_dmem (v : Nat) : (n.setCycles v).dmem = n.dmem := rfl
@[simp] theorem State.setCycles_nmem (v : Nat) : (n.setCycles v).nmem = n.nmem := rfl
@[simp] theorem State.setCycles_ifid (v : Nat) : (n.setCycles v).ifid = n.ifid := rfl
@[simp] theorem State.setCycles_idex (v : Nat) : (n.setCycles v).idex = n.idex := rfl
@[simp] theorem State.setCycles_exmem (v : Nat) : (n.setCycles v).exmem = n.exmem := rfl
@[simp] theorem State.setCycles_memwb (v : Nat) : (n.setCycles v).memwb = n.memwb := rfl
@[simp] theorem State.setCycles_wbend (v : Nat) : (n.setCycles v).wbend = n.wbend := rfl
@[simp] theorem State.setCycles_cycles (v : Nat) : (n.setCycles v).cycles = v := rfl
@[simp] theorem State.setCycles_rawPolicy (v : Nat) : (n.setCycles v).rawPolicy = n.rawPolicy := rfl

/-! ### The register file -/

/-- `x[r]` after `x[r] <- v`. -/
@[simp] theorem RegFile.read_write_same (f : RegFile) (r : Reg) (v : Word) : (f.write r v).read r = v := by
  simp [RegFile.read, RegFile.write]

/-- A register write leaves every other register alone. -/
theorem RegFile.read_write_other (f : RegFile) (r q : Reg) (v : Word) (h : q ≠ r) :
    (f.write r v).read q = f.read q := by
  have hne : r.toNat ≠ q.toNat := fun e => h (BitVec.eq_of_toNat_eq e.symm)
  simp [RegFile.read, RegFile.write, hne]

/-- Both cases of a register read after a write. -/
theorem RegFile.read_write (f : RegFile) (r q : Reg) (v : Word) :
    (f.write r v).read q = if q = r then v else f.read q := by
  by_cases h : q = r
  · subst h; simp
  · simp [h, RegFile.read_write_other f r q v h]

/-- Two register files that read alike are equal. -/
theorem RegFile.ext_read (f g : RegFile) (h : ∀ r, f.read r = g.read r) : f = g := by
  apply Vector.ext
  intro i hi
  have := h (BitVec.ofNat 3 i)
  have hm : i % 2 ^ 3 = i := Nat.mod_eq_of_lt hi
  simpa only [RegFile.read, BitVec.toNat_ofNat, hm] using this

/-- Every register of the reset file reads 0. -/
@[simp] theorem RegFile.read_replicate (r : Reg) : RegFile.read (Vector.replicate 8 0) r = 0 := by
  simp [RegFile.read]

end Sys2Proof.Machine
end

