-- ==== Sys2Proof/Laws/Forward.lean ====
section
/-! SUPPORT. What each forwarding path can do: it writes operand values of `IDEX`, or the store data of `EXMEM`, and
nothing else (45_forwarding.md R127). -/

namespace Sys2Proof.Machine

variable (s n : State) (r : Reg) (v : Word)

/-! ### `forwardToIDEX` -/

@[simp] theorem forwardToIdex_pc : (forwardToIdex r v n).pc = n.pc := rfl
@[simp] theorem forwardToIdex_reg : (forwardToIdex r v n).reg = n.reg := rfl
@[simp] theorem forwardToIdex_imem : (forwardToIdex r v n).imem = n.imem := rfl
@[simp] theorem forwardToIdex_dmem : (forwardToIdex r v n).dmem = n.dmem := rfl
@[simp] theorem forwardToIdex_nmem : (forwardToIdex r v n).nmem = n.nmem := rfl
@[simp] theorem forwardToIdex_ifid : (forwardToIdex r v n).ifid = n.ifid := rfl
@[simp] theorem forwardToIdex_exmem : (forwardToIdex r v n).exmem = n.exmem := rfl
@[simp] theorem forwardToIdex_memwb : (forwardToIdex r v n).memwb = n.memwb := rfl
@[simp] theorem forwardToIdex_wbend : (forwardToIdex r v n).wbend = n.wbend := rfl
@[simp] theorem forwardToIdex_cycles : (forwardToIdex r v n).cycles = n.cycles := rfl
@[simp] theorem forwardToIdex_rawPolicy : (forwardToIdex r v n).rawPolicy = n.rawPolicy := rfl
@[simp] theorem forwardToIdex_idex_instr : (forwardToIdex r v n).idex.instr = n.idex.instr := rfl
@[simp] theorem forwardToIdex_idex_pcPlus1 : (forwardToIdex r v n).idex.pcPlus1 = n.idex.pcPlus1 := rfl
@[simp] theorem forwardToIdex_idex_offset : (forwardToIdex r v n).idex.offset = n.idex.offset := rfl
@[simp] theorem forwardToIdex_idex_badA : (forwardToIdex r v n).idex.badA = n.idex.badA := rfl
@[simp] theorem forwardToIdex_idex_badB : (forwardToIdex r v n).idex.badB = n.idex.badB := rfl

/-- The `regA` operand after a forward of `v` for register `r` (45_forwarding.md R130). -/
theorem forwardToIdex_readRegA :
    (forwardToIdex r v n).idex.readRegA =
      if srcA (opcodeOf n.idex.instr) && regA n.idex.instr == r then v else n.idex.readRegA := rfl

/-- The `regB` operand after a forward of `v` for register `r` (45_forwarding.md R130). -/
theorem forwardToIdex_readRegB :
    (forwardToIdex r v n).idex.readRegB =
      if srcB (opcodeOf n.idex.instr) && regB n.idex.instr == r then v else n.idex.readRegB := rfl

/-- A forward into a latch whose instruction has no source field does nothing (45_forwarding.md R130: "a NOOP and nothing
is overridden"). -/
theorem forwardToIdex_of_no_source (hA : srcA (opcodeOf n.idex.instr) = false)
    (hB : srcB (opcodeOf n.idex.instr) = false) : forwardToIdex r v n = n := by
  cases n
  simp only at hA hB
  simp [forwardToIdex, State.setIdex, hA, hB]

/-! ### Path 1 -/

/-- Everything path 1 can do (45_forwarding.md R122). -/
theorem forwardFromExecute_cases :
    (isRFormat (opcodeOf s.idex.instr) = true ∧
      forwardFromExecute s n = forwardToIdex (dest s.idex.instr) n.exmem.aluResult n) ∨
    (isRFormat (opcodeOf s.idex.instr) = false ∧ forwardFromExecute s n = n) := by
  unfold forwardFromExecute
  cases h : isRFormat (opcodeOf s.idex.instr) <;> simp

@[simp] theorem forwardFromExecute_pc : (forwardFromExecute s n).pc = n.pc := by
  rcases forwardFromExecute_cases s n with ⟨_, h⟩ | ⟨_, h⟩ <;> simp [h]
@[simp] theorem forwardFromExecute_reg : (forwardFromExecute s n).reg = n.reg := by
  rcases forwardFromExecute_cases s n with ⟨_, h⟩ | ⟨_, h⟩ <;> simp [h]
@[simp] theorem forwardFromExecute_imem : (forwardFromExecute s n).imem = n.imem := by
  rcases forwardFromExecute_cases s n with ⟨_, h⟩ | ⟨_, h⟩ <;> simp [h]
@[simp] theorem forwardFromExecute_dmem : (forwardFromExecute s n).dmem = n.dmem := by
  rcases forwardFromExecute_cases s n with ⟨_, h⟩ | ⟨_, h⟩ <;> simp [h]
@[simp] theorem forwardFromExecute_nmem : (forwardFromExecute s n).nmem = n.nmem := by
  rcases forwardFromExecute_cases s n with ⟨_, h⟩ | ⟨_, h⟩ <;> simp [h]
@[simp] theorem forwardFromExecute_ifid : (forwardFromExecute s n).ifid = n.ifid := by
  rcases forwardFromExecute_cases s n with ⟨_, h⟩ | ⟨_, h⟩ <;> simp [h]
@[simp] theorem forwardFromExecute_exmem : (forwardFromExecute s n).exmem = n.exmem := by
  rcases forwardFromExecute_cases s n with ⟨_, h⟩ | ⟨_, h⟩ <;> simp [h]
@[simp] theorem forwardFromExecute_memwb : (forwardFromExecute s n).memwb = n.memwb := by
  rcases forwardFromExecute_cases s n with ⟨_, h⟩ | ⟨_, h⟩ <;> simp [h]
@[simp] theorem forwardFromExecute_wbend : (forwardFromExecute s n).wbend = n.wbend := by
  rcases forwardFromExecute_cases s n with ⟨_, h⟩ | ⟨_, h⟩ <;> simp [h]
@[simp] theorem forwardFromExecute_cycles : (forwardFromExecute s n).cycles = n.cycles := by
  rcases forwardFromExecute_cases s n with ⟨_, h⟩ | ⟨_, h⟩ <;> simp [h]
@[simp] theorem forwardFromExecute_rawPolicy : (forwardFromExecute s n).rawPolicy = n.rawPolicy := by
  rcases forwardFromExecute_cases s n with ⟨_, h⟩ | ⟨_, h⟩ <;> simp [h]
@[simp] theorem forwardFromExecute_idex_instr : (forwardFromExecute s n).idex.instr = n.idex.instr := by
  rcases forwardFromExecute_cases s n with ⟨_, h⟩ | ⟨_, h⟩ <;> simp [h]
@[simp] theorem forwardFromExecute_idex_pcPlus1 : (forwardFromExecute s n).idex.pcPlus1 = n.idex.pcPlus1 := by
  rcases forwardFromExecute_cases s n with ⟨_, h⟩ | ⟨_, h⟩ <;> simp [h]
@[simp] theorem forwardFromExecute_idex_offset : (forwardFromExecute s n).idex.offset = n.idex.offset := by
  rcases forwardFromExecute_cases s n with ⟨_, h⟩ | ⟨_, h⟩ <;> simp [h]
@[simp] theorem forwardFromExecute_idex_badA : (forwardFromExecute s n).idex.badA = n.idex.badA := by
  rcases forwardFromExecute_cases s n with ⟨_, h⟩ | ⟨_, h⟩ <;> simp [h]
@[simp] theorem forwardFromExecute_idex_badB : (forwardFromExecute s n).idex.badB = n.idex.badB := by
  rcases forwardFromExecute_cases s n with ⟨_, h⟩ | ⟨_, h⟩ <;> simp [h]

/-! ### Path 2 -/

/-- Everything the store-data override can do (45_forwarding.md R124). -/
theorem forwardStoreData_cases :
    (opcodeOf n.exmem.instr = .sw ∧ regB n.exmem.instr = r ∧
      forwardStoreData r v n = n.setExmem { n.exmem with readRegB := v }) ∨
    (¬ (opcodeOf n.exmem.instr = .sw ∧ regB n.exmem.instr = r) ∧ forwardStoreData r v n = n) := by
  unfold forwardStoreData
  by_cases h1 : opcodeOf n.exmem.instr = .sw <;> by_cases h2 : regB n.exmem.instr = r <;> simp [h1, h2]

@[simp] theorem forwardStoreData_pc : (forwardStoreData r v n).pc = n.pc := by
  rcases forwardStoreData_cases n r v with ⟨_, _, h⟩ | ⟨_, h⟩ <;> simp [h]
@[simp] theorem forwardStoreData_reg : (forwardStoreData r v n).reg = n.reg := by
  rcases forwardStoreData_cases n r v with ⟨_, _, h⟩ | ⟨_, h⟩ <;> simp [h]
@[simp] theorem forwardStoreData_imem : (forwardStoreData r v n).imem = n.imem := by
  rcases forwardStoreData_cases n r v with ⟨_, _, h⟩ | ⟨_, h⟩ <;> simp [h]
@[simp] theorem forwardStoreData_dmem : (forwardStoreData r v n).dmem = n.dmem := by
  rcases forwardStoreData_cases n r v with ⟨_, _, h⟩ | ⟨_, h⟩ <;> simp [h]
@[simp] theorem forwardStoreData_nmem : (forwardStoreData r v n).nmem = n.nmem := by
  rcases forwardStoreData_cases n r v with ⟨_, _, h⟩ | ⟨_, h⟩ <;> simp [h]
@[simp] theorem forwardStoreData_ifid : (forwardStoreData r v n).ifid = n.ifid := by
  rcases forwardStoreData_cases n r v with ⟨_, _, h⟩ | ⟨_, h⟩ <;> simp [h]
@[simp] theorem forwardStoreData_idex : (forwardStoreData r v n).idex = n.idex := by
  rcases forwardStoreData_cases n r v with ⟨_, _, h⟩ | ⟨_, h⟩ <;> simp [h]
@[simp] theorem forwardStoreData_memwb : (forwardStoreData r v n).memwb = n.memwb := by
  rcases forwardStoreData_cases n r v with ⟨_, _, h⟩ | ⟨_, h⟩ <;> simp [h]
@[simp] theorem forwardStoreData_wbend : (forwardStoreData r v n).wbend = n.wbend := by
  rcases forwardStoreData_cases n r v with ⟨_, _, h⟩ | ⟨_, h⟩ <;> simp [h]
@[simp] theorem forwardStoreData_cycles : (forwardStoreData r v n).cycles = n.cycles := by
  rcases forwardStoreData_cases n r v with ⟨_, _, h⟩ | ⟨_, h⟩ <;> simp [h]
@[simp] theorem forwardStoreData_rawPolicy : (forwardStoreData r v n).rawPolicy = n.rawPolicy := by
  rcases forwardStoreData_cases n r v with ⟨_, _, h⟩ | ⟨_, h⟩ <;> simp [h]
@[simp] theorem forwardStoreData_exmem_instr : (forwardStoreData r v n).exmem.instr = n.exmem.instr := by
  rcases forwardStoreData_cases n r v with ⟨_, _, h⟩ | ⟨_, h⟩ <;> simp [h]
@[simp] theorem forwardStoreData_exmem_branchTarget : (forwardStoreData r v n).exmem.branchTarget = n.exmem.branchTarget := by
  rcases forwardStoreData_cases n r v with ⟨_, _, h⟩ | ⟨_, h⟩ <;> simp [h]
@[simp] theorem forwardStoreData_exmem_aluResult : (forwardStoreData r v n).exmem.aluResult = n.exmem.aluResult := by
  rcases forwardStoreData_cases n r v with ⟨_, _, h⟩ | ⟨_, h⟩ <;> simp [h]
@[simp] theorem forwardStoreData_exmem_bad : (forwardStoreData r v n).exmem.bad = n.exmem.bad := by
  rcases forwardStoreData_cases n r v with ⟨_, _, h⟩ | ⟨_, h⟩ <;> simp [h]

@[simp] theorem forwardFromMemory_pc : (forwardFromMemory r v n).pc = n.pc := by simp [forwardFromMemory]
@[simp] theorem forwardFromMemory_reg : (forwardFromMemory r v n).reg = n.reg := by simp [forwardFromMemory]
@[simp] theorem forwardFromMemory_imem : (forwardFromMemory r v n).imem = n.imem := by simp [forwardFromMemory]
@[simp] theorem forwardFromMemory_dmem : (forwardFromMemory r v n).dmem = n.dmem := by simp [forwardFromMemory]
@[simp] theorem forwardFromMemory_nmem : (forwardFromMemory r v n).nmem = n.nmem := by simp [forwardFromMemory]
@[simp] theorem forwardFromMemory_ifid : (forwardFromMemory r v n).ifid = n.ifid := by simp [forwardFromMemory]
@[simp] theorem forwardFromMemory_memwb : (forwardFromMemory r v n).memwb = n.memwb := by simp [forwardFromMemory]
@[simp] theorem forwardFromMemory_wbend : (forwardFromMemory r v n).wbend = n.wbend := by simp [forwardFromMemory]
@[simp] theorem forwardFromMemory_cycles : (forwardFromMemory r v n).cycles = n.cycles := by simp [forwardFromMemory]
@[simp] theorem forwardFromMemory_rawPolicy : (forwardFromMemory r v n).rawPolicy = n.rawPolicy := by simp [forwardFromMemory]
@[simp] theorem forwardFromMemory_idex : (forwardFromMemory r v n).idex = (forwardToIdex r v n).idex := by
  simp [forwardFromMemory]

/-- Path 2 reaches `EXMEM` through the store-data override alone. -/
@[simp] theorem forwardFromMemory_exmem : (forwardFromMemory r v n).exmem = (forwardStoreData r v n).exmem := by
  unfold forwardFromMemory forwardStoreData
  by_cases h : (opcodeOf n.exmem.instr == .sw && regB n.exmem.instr == r) = true <;> simp [h]

end Sys2Proof.Machine
end

