-- ==== Sys2Proof/Laws/Memory.lean ====
section
/-! SUPPORT. The laws of memory: read after write, and every memory operation keeps the canonical form. -/

namespace Sys2Proof.Machine

/-- Reading behind one cell put in front of a rest that does not list its address. -/
theorem Memory.read_listCell (a b : Nat) (v : Word) (rest : Memory) (h : rest.read a = unlistedWord) :
    (Memory.listCell a v rest).read b = if b = a then v else rest.read b := by
  unfold Memory.listCell
  by_cases hv : v = unlistedWord
  · simp only [hv, if_true]
    by_cases hb : b = a
    · simp [hb, h]
    · simp [hb]
  · simp only [hv, if_false, Memory.read]
    by_cases hb : b = a
    · simp [hb]
    · simp [hb, Ne.symm hb]

/-- An address below every listed one is unlisted. -/
theorem Memory.read_below (m : Memory) (a : Nat) (h : ∀ c ∈ m, a < c.1) : m.read a = unlistedWord := by
  induction m with
  | nil => rfl
  | cons c rest ih =>
    have hc := h c (by simp)
    simp only [Memory.read]
    rw [if_neg (by omega)]
    exact ih fun d hd => h d (by simp [hd])

/-- Read after write, at every address, in a memory in canonical form. -/
theorem Memory.read_write (m : Memory) (a b : Nat) (v : Word) (h : m.wf) :
    (m.write a v).read b = if b = a then v else m.read b := by
  obtain ⟨hp, hm⟩ := h
  induction m with
  | nil => exact Memory.read_listCell a b v [] rfl
  | cons c rest ih =>
    obtain ⟨c1, c2⟩ := c
    rw [List.pairwise_cons] at hp
    have hrest : Memory.wf rest := ⟨hp.2, fun d hd => hm d (by simp [hd])⟩
    simp only [Memory.write]
    split
    · next hlt =>
      refine Memory.read_listCell a b v _ (Memory.read_below _ a ?_)
      intro d hd
      rcases List.mem_cons.mp hd with rfl | hd
      · exact hlt
      · exact Nat.lt_trans hlt (hp.1 d hd)
    · split
      · next heq =>
        subst heq
        rw [Memory.read_listCell a b v rest (Memory.read_below _ a hp.1)]
        by_cases hb : b = a
        · simp [hb]
        · simp [hb, Memory.read, Ne.symm hb]
      · next hne =>
        simp only [Memory.read]
        by_cases hb : c1 = b
        · simp [hb, Ne.symm (hb ▸ hne : ¬ a = b)]
        · simp only [hb, if_false]
          exact ih hrest.1 hrest.2

/-- The stored word is read back. -/
theorem Memory.read_write_same (m : Memory) (a : Nat) (v : Word) (h : m.wf) : (m.write a v).read a = v := by
  simp [Memory.read_write m a a v h]

/-- A store leaves every other word alone. -/
theorem Memory.read_write_other (m : Memory) (a b : Nat) (v : Word) (h : m.wf) (hb : b ≠ a) :
    (m.write a v).read b = m.read b := by
  simp [Memory.read_write m a b v h, hb]

/-- Every cell of a written memory is the written one or an old one. -/
theorem Memory.mem_write (m : Memory) (a : Nat) (v : Word) (c : WordCell) (h : c ∈ m.write a v) :
    (c = (a, v) ∧ v ≠ unlistedWord) ∨ c ∈ m := by
  induction m with
  | nil =>
    simp only [Memory.write, Memory.listCell] at h
    split at h
    · simp at h
    · next hv => simp only [List.mem_singleton] at h; exact Or.inl ⟨h, hv⟩
  | cons d rest ih =>
    obtain ⟨d1, d2⟩ := d
    simp only [Memory.write, Memory.listCell] at h
    split at h
    · split at h
      · exact Or.inr h
      · next hv => rcases List.mem_cons.mp h with h | h
                   · exact Or.inl ⟨h, hv⟩
                   · exact Or.inr h
    · split at h
      · split at h
        · exact Or.inr (by simp [h])
        · next hv => rcases List.mem_cons.mp h with h | h
                     · exact Or.inl ⟨h, hv⟩
                     · exact Or.inr (by simp [h])
      · rcases List.mem_cons.mp h with h | h
        · exact Or.inr (by simp [h])
        · exact (ih h).imp id fun h => by simp [h]

/-- A cell may be put in front of a canonical memory that lists only higher addresses. -/
theorem Memory.listCell_wf (a : Nat) (v : Word) (rest : Memory) (ha : a < Config.memoryWords) (h : rest.wf)
    (hb : ∀ c ∈ rest, a < c.1) : (Memory.listCell a v rest).wf := by
  unfold Memory.listCell
  split
  · exact h
  · next hv =>
    refine ⟨List.pairwise_cons.mpr ⟨hb, h.1⟩, fun c hc => ?_⟩
    rcases List.mem_cons.mp hc with rfl | hc
    · exact ⟨ha, hv⟩
    · exact h.2 c hc

/-- A write inside the array keeps the canonical form. -/
theorem Memory.write_wf (m : Memory) (a : Nat) (v : Word) (ha : a < Config.memoryWords) (h : m.wf) :
    (m.write a v).wf := by
  obtain ⟨hp, hm⟩ := h
  induction m with
  | nil => exact Memory.listCell_wf a v [] ha ⟨hp, hm⟩ (by simp)
  | cons c rest ih =>
    obtain ⟨c1, c2⟩ := c
    have hp' := List.pairwise_cons.mp hp
    have hrest : Memory.wf rest := ⟨hp'.2, fun d hd => hm d (by simp [hd])⟩
    simp only [Memory.write]
    split
    · next hlt =>
      refine Memory.listCell_wf a v _ ha ⟨hp, hm⟩ fun d hd => ?_
      rcases List.mem_cons.mp hd with rfl | hd
      · exact hlt
      · exact Nat.lt_trans hlt (hp'.1 d hd)
    · split
      · next heq => subst heq; exact Memory.listCell_wf a v rest ha hrest hp'.1
      · next hnlt hne =>
        have hw := ih hrest.1 hrest.2
        refine ⟨List.pairwise_cons.mpr ⟨fun d hd => ?_, hw.1⟩, fun d hd => ?_⟩
        · rcases Memory.mem_write rest a v d hd with ⟨rfl, _⟩ | hd
          · show c1 < a
            omega
          · exact hp'.1 d hd
        · rcases List.mem_cons.mp hd with rfl | hd
          · exact hm _ (by simp)
          · exact hw.2 d hd

/-- The memory of an image lists only the addresses it was loaded at. -/
theorem Memory.ofWords_bounds (a : Nat) (ws : List Word) (c : WordCell) (h : c ∈ Memory.ofWords a ws) :
    a ≤ c.1 ∧ c.1 < a + ws.length := by
  induction ws generalizing a with
  | nil => simp [Memory.ofWords] at h
  | cons w ws ih =>
    simp only [Memory.ofWords, Memory.listCell] at h
    split at h
    · have := ih (a + 1) h
      simp only [List.length_cons]
      omega
    · rcases List.mem_cons.mp h with rfl | h
      · simp
      · have := ih (a + 1) h
        simp only [List.length_cons]
        omega

/-- The memory of an image that fits the array is in canonical form. -/
theorem Memory.ofWords_wf (a : Nat) (ws : List Word) (h : a + ws.length ≤ Config.memoryWords) :
    (Memory.ofWords a ws).wf := by
  induction ws generalizing a with
  | nil => exact ⟨List.Pairwise.nil, by simp [Memory.ofWords]⟩
  | cons w ws ih =>
    simp only [List.length_cons] at h
    refine Memory.listCell_wf a w _ (by omega) (ih (a + 1) (by omega)) fun c hc => ?_
    have := (Memory.ofWords_bounds (a + 1) ws c hc).1
    omega

/-- A memory that lists nothing is in canonical form. -/
theorem Memory.wf_nil : Memory.wf [] := ⟨List.Pairwise.nil, by simp⟩

/-- The memories of the reset state are in canonical form. -/
theorem reset_memories_wf : State.reset.imem.wf ∧ State.reset.dmem.wf := ⟨Memory.wf_nil, Memory.wf_nil⟩

/-- An address that passes the range check is an address of the array. -/
theorem toNat_lt_of_addressInRange (a : Word) (h : addressInRange a = true) : a.toNat < Config.memoryWords := by
  simp only [addressInRange, Bool.and_eq_true, decide_eq_true_eq] at h
  have := BitVec.toInt_eq_toNat_cond a
  have hlt := a.isLt
  simp only [Config.memoryWords, Nat.cast_ofNat] at h ⊢
  split at this <;> omega

/-- The range check, on the unsigned reading of the address. -/
theorem addressInRange_iff (a : Word) : addressInRange a = true ↔ a.toNat < 65536 := by
  refine ⟨toNat_lt_of_addressInRange a, fun h => ?_⟩
  have hi : a.toInt = a.toNat := BitVec.toInt_eq_toNat_of_lt (by omega)
  simp only [addressInRange, Bool.and_eq_true, decide_eq_true_eq, Config.memoryWords, hi, Nat.cast_ofNat]
  omega

end Sys2Proof.Machine
end

