-- ==== Sys2Proof/Laws/Cycle.lean ====
section
/-! SUPPORT. What the steps of a cycle leave in the state under construction, and what a cycle can do as a whole. -/

namespace Sys2Proof.Machine

variable (s n t : State)

/-! ### Steps 2 to 4 -/

@[simp] theorem frontStages_pc : (frontStages s).pc = if s.stalls then s.pc else s.nextPc := by
  by_cases h : s.stalls = true <;> simp [frontStages, executeStage, decodeStage, fetchStage, h]
@[simp] theorem frontStages_reg : (frontStages s).reg = s.reg := by
  by_cases h : s.stalls = true <;> simp [frontStages, executeStage, decodeStage, fetchStage, h]
@[simp] theorem frontStages_imem : (frontStages s).imem = s.imem := by
  by_cases h : s.stalls = true <;> simp [frontStages, executeStage, decodeStage, fetchStage, h]
@[simp] theorem frontStages_dmem : (frontStages s).dmem = s.dmem := by
  by_cases h : s.stalls = true <;> simp [frontStages, executeStage, decodeStage, fetchStage, h]
@[simp] theorem frontStages_nmem : (frontStages s).nmem = s.nmem := by
  by_cases h : s.stalls = true <;> simp [frontStages, executeStage, decodeStage, fetchStage, h]
@[simp] theorem frontStages_ifid : (frontStages s).ifid = if s.stalls then s.ifid else fetchLatch s := by
  by_cases h : s.stalls = true <;> simp [frontStages, executeStage, decodeStage, fetchStage, h]
@[simp] theorem frontStages_exmem : (frontStages s).exmem = executeLatch s.idex := by
  by_cases h : s.stalls = true <;> simp [frontStages, executeStage, decodeStage, fetchStage, h]
@[simp] theorem frontStages_memwb : (frontStages s).memwb = s.memwb := by
  by_cases h : s.stalls = true <;> simp [frontStages, executeStage, decodeStage, fetchStage, h]
@[simp] theorem frontStages_wbend : (frontStages s).wbend = s.wbend := by
  by_cases h : s.stalls = true <;> simp [frontStages, executeStage, decodeStage, fetchStage, h]
@[simp] theorem frontStages_cycles : (frontStages s).cycles = s.cycles := by
  by_cases h : s.stalls = true <;> simp [frontStages, executeStage, decodeStage, fetchStage, h]
@[simp] theorem frontStages_rawPolicy : (frontStages s).rawPolicy = s.rawPolicy := by
  by_cases h : s.stalls = true <;> simp [frontStages, executeStage, decodeStage, fetchStage, h]

/-- The word in the new `IDEX` is the bubble's on a stall, else the word that was in ID (47_pipeline_driver.md R153). -/
@[simp] theorem frontStages_idex_instr :
    (frontStages s).idex.instr = if s.stalls then Config.noopInstr else s.ifid.instr := by
  by_cases h : s.stalls = true <;>
    simp [frontStages, executeStage, decodeStage, fetchStage, h, bubbleIdex, decodeLatch]

@[simp] theorem frontStages_idex_pcPlus1 :
    (frontStages s).idex.pcPlus1 = if s.stalls then 0 else s.ifid.pcPlus1 := by
  by_cases h : s.stalls = true <;>
    simp [frontStages, executeStage, decodeStage, fetchStage, h, bubbleIdex, decodeLatch]
@[simp] theorem frontStages_idex_offset :
    (frontStages s).idex.offset = if s.stalls then 0 else sext16 (low16 s.ifid.instr) := by
  by_cases h : s.stalls = true <;>
    simp [frontStages, executeStage, decodeStage, fetchStage, h, bubbleIdex, decodeLatch]
@[simp] theorem frontStages_idex_badA :
    (frontStages s).idex.badA = if s.stalls then false else s.badA := by
  by_cases h : s.stalls = true <;>
    simp [frontStages, executeStage, decodeStage, fetchStage, h, bubbleIdex, decodeLatch]
@[simp] theorem frontStages_idex_badB :
    (frontStages s).idex.badB = if s.stalls then false else s.badB := by
  by_cases h : s.stalls = true <;>
    simp [frontStages, executeStage, decodeStage, fetchStage, h, bubbleIdex, decodeLatch]

/-- On a stall the new `IDEX` is the bubble: path 1 finds no source field (44_hazard_detector.md R111). -/
theorem frontStages_idex_of_stall (h : s.stalls = true) : (frontStages s).idex = bubbleIdex := by
  rcases forwardFromExecute_cases s ((decodeStage s (fetchStage s s)).setExmem (executeLatch s.idex)) with
    ⟨_, hf⟩ | ⟨_, hf⟩
  · rw [frontStages, executeStage, hf, forwardToIdex_of_no_source] <;>
      simp [decodeStage, h, bubbleIdex, srcA, srcB]
  · rw [frontStages, executeStage, hf]
    simp [decodeStage, h]

/-- Without a stall the new `IDEX` is what ID read, under path 1 (47_pipeline_driver.md R153, R154). -/
theorem frontStages_idex_of_no_stall (h : s.stalls = false) :
    (frontStages s).idex =
      (forwardFromExecute s ((s.setIdex { decodeLatch s.reg s.ifid with badA := s.badA, badB := s.badB }).setExmem
        (executeLatch s.idex))).idex := by
  by_cases hr : isRFormat (opcodeOf s.idex.instr) = true <;>
    simp [frontStages, executeStage, decodeStage, fetchStage, h, forwardFromExecute, hr, forwardToIdex]

/-! ### Step 5, the pieces -/

@[simp] theorem intoMemwb_eq (w v : Word) : intoMemwb w v n = n.setMemwb { instr := w, writeData := v } := rfl

@[simp] theorem redirectAndSquash_eq (target : Word) :
    redirectAndSquash target n =
      (((n.setPc target).setIfid bubbleIfid).setIdex bubbleIdex).setExmem bubbleExmem := rfl

/-! ### Step 6 -/

/-- Everything the register write of WB can do (47_pipeline_driver.md R156). -/
theorem retireWord_cases :
    (isRFormat (opcodeOf s.memwb.instr) = true ∧
      retireWord s n = n.setReg (s.reg.write (dest s.memwb.instr) s.memwb.writeData)) ∨
    (opcodeOf s.memwb.instr = .lw ∧
      retireWord s n =
        forwardFromWriteback s (n.setReg (s.reg.write (regB s.memwb.instr) s.memwb.writeData))) ∨
    (isRFormat (opcodeOf s.memwb.instr) = false ∧ opcodeOf s.memwb.instr ≠ .lw ∧ retireWord s n = n) := by
  unfold retireWord
  cases h : opcodeOf s.memwb.instr <;> simp [isRFormat]

@[simp] theorem retireWord_pc : (retireWord s n).pc = n.pc := by
  rcases retireWord_cases s n with ⟨_, h⟩ | ⟨_, h⟩ | ⟨_, _, h⟩ <;> simp [h, forwardFromWriteback]
@[simp] theorem retireWord_imem : (retireWord s n).imem = n.imem := by
  rcases retireWord_cases s n with ⟨_, h⟩ | ⟨_, h⟩ | ⟨_, _, h⟩ <;> simp [h, forwardFromWriteback]
@[simp] theorem retireWord_dmem : (retireWord s n).dmem = n.dmem := by
  rcases retireWord_cases s n with ⟨_, h⟩ | ⟨_, h⟩ | ⟨_, _, h⟩ <;> simp [h, forwardFromWriteback]
@[simp] theorem retireWord_nmem : (retireWord s n).nmem = n.nmem := by
  rcases retireWord_cases s n with ⟨_, h⟩ | ⟨_, h⟩ | ⟨_, _, h⟩ <;> simp [h, forwardFromWriteback]
@[simp] theorem retireWord_ifid : (retireWord s n).ifid = n.ifid := by
  rcases retireWord_cases s n with ⟨_, h⟩ | ⟨_, h⟩ | ⟨_, _, h⟩ <;> simp [h, forwardFromWriteback]
@[simp] theorem retireWord_exmem : (retireWord s n).exmem = n.exmem := by
  rcases retireWord_cases s n with ⟨_, h⟩ | ⟨_, h⟩ | ⟨_, _, h⟩ <;> simp [h, forwardFromWriteback]
@[simp] theorem retireWord_memwb : (retireWord s n).memwb = n.memwb := by
  rcases retireWord_cases s n with ⟨_, h⟩ | ⟨_, h⟩ | ⟨_, _, h⟩ <;> simp [h, forwardFromWriteback]
@[simp] theorem retireWord_wbend : (retireWord s n).wbend = n.wbend := by
  rcases retireWord_cases s n with ⟨_, h⟩ | ⟨_, h⟩ | ⟨_, _, h⟩ <;> simp [h, forwardFromWriteback]
@[simp] theorem retireWord_cycles : (retireWord s n).cycles = n.cycles := by
  rcases retireWord_cases s n with ⟨_, h⟩ | ⟨_, h⟩ | ⟨_, _, h⟩ <;> simp [h, forwardFromWriteback]
@[simp] theorem retireWord_rawPolicy : (retireWord s n).rawPolicy = n.rawPolicy := by
  rcases retireWord_cases s n with ⟨_, h⟩ | ⟨_, h⟩ | ⟨_, _, h⟩ <;> simp [h, forwardFromWriteback]
@[simp] theorem retireWord_idex_instr : (retireWord s n).idex.instr = n.idex.instr := by
  rcases retireWord_cases s n with ⟨_, h⟩ | ⟨_, h⟩ | ⟨_, _, h⟩ <;> simp [h, forwardFromWriteback]
@[simp] theorem retireWord_idex_pcPlus1 : (retireWord s n).idex.pcPlus1 = n.idex.pcPlus1 := by
  rcases retireWord_cases s n with ⟨_, h⟩ | ⟨_, h⟩ | ⟨_, _, h⟩ <;> simp [h, forwardFromWriteback]
@[simp] theorem retireWord_idex_offset : (retireWord s n).idex.offset = n.idex.offset := by
  rcases retireWord_cases s n with ⟨_, h⟩ | ⟨_, h⟩ | ⟨_, _, h⟩ <;> simp [h, forwardFromWriteback]
@[simp] theorem retireWord_idex_badA : (retireWord s n).idex.badA = n.idex.badA := by
  rcases retireWord_cases s n with ⟨_, h⟩ | ⟨_, h⟩ | ⟨_, _, h⟩ <;> simp [h, forwardFromWriteback]
@[simp] theorem retireWord_idex_badB : (retireWord s n).idex.badB = n.idex.badB := by
  rcases retireWord_cases s n with ⟨_, h⟩ | ⟨_, h⟩ | ⟨_, _, h⟩ <;> simp [h, forwardFromWriteback]

/-- The registers after WB, when nothing wrote them before (47_pipeline_driver.md R156). -/
theorem retireWord_reg (h : n.reg = s.reg) (r : Reg) : (retireWord s n).reg.read r = s.regAfter r := by
  unfold State.regAfter aluWrites loadWrites
  rcases retireWord_cases s n with ⟨hr, e⟩ | ⟨hl, e⟩ | ⟨hr, hl, e⟩ <;> rw [e]
  · have hne : opcodeOf s.memwb.instr ≠ .lw := fun hl => by simp [hl, isRFormat] at hr
    by_cases hq : r = dest s.memwb.instr
    · simp [hq, hr]
    · simp [RegFile.read_write, hr, hne, hq, Ne.symm hq]
  · by_cases hq : r = regB s.memwb.instr
    · simp [forwardFromWriteback, hq, hl, isRFormat]
    · simp [forwardFromWriteback, RegFile.read_write, hl, isRFormat, hq, Ne.symm hq]
  · simp [hr, hl, h]

@[simp] theorem writebackStage_pc : (writebackStage s n).pc = n.pc := by simp [writebackStage]
@[simp] theorem writebackStage_imem : (writebackStage s n).imem = n.imem := by simp [writebackStage]
@[simp] theorem writebackStage_dmem : (writebackStage s n).dmem = n.dmem := by simp [writebackStage]
@[simp] theorem writebackStage_nmem : (writebackStage s n).nmem = n.nmem := by simp [writebackStage]
@[simp] theorem writebackStage_ifid : (writebackStage s n).ifid = n.ifid := by simp [writebackStage]
@[simp] theorem writebackStage_exmem : (writebackStage s n).exmem = n.exmem := by simp [writebackStage]
@[simp] theorem writebackStage_memwb : (writebackStage s n).memwb = n.memwb := by simp [writebackStage]
@[simp] theorem writebackStage_cycles : (writebackStage s n).cycles = n.cycles := by simp [writebackStage]
@[simp] theorem writebackStage_rawPolicy : (writebackStage s n).rawPolicy = n.rawPolicy := by simp [writebackStage]
@[simp] theorem writebackStage_idex : (writebackStage s n).idex = (retireWord s n).idex := rfl
@[simp] theorem writebackStage_reg : (writebackStage s n).reg = (retireWord s n).reg := rfl
@[simp] theorem writebackStage_wbend :
    (writebackStage s n).wbend = { instr := s.memwb.instr, writeData := s.memwb.writeData } := rfl

/-! ### The cycle -/

/-- `CycleClear` in the terms of `commitCycle`. -/
theorem cycleClear_iff : s.CycleClear ↔ unforwarded s = false ∧ s.fetchAllowed = true := by
  unfold State.CycleClear unforwarded State.fetchAllowed
  cases s.rawPolicy <;> cases s.stalls <;> simp

/-- A cycle that nothing stops is committed (47_pipeline_driver.md R157). -/
theorem commitCycle_of_clear (f : State → State) (h : s.CycleClear) :
    commitCycle s f = .next ((writebackStage s (f (frontStages s))).setCycles (s.cycles + 1)) := by
  obtain ⟨h1, h2⟩ := (cycleClear_iff s).mp h
  simp [commitCycle, h1, h2]

/-- Everything a cycle can do: the two faults of 60_exceptions.md R182, or the commit. -/
theorem commitCycle_cases (f : State → State) :
    (unforwarded s = true ∧ commitCycle s f = .fault .unforwardedHazard) ∨
    (unforwarded s = false ∧ s.fetchAllowed = false ∧ commitCycle s f = .fault (.fetchAddressOutOfRange s.pc)) ∨
    (s.CycleClear ∧
      commitCycle s f = .next ((writebackStage s (f (frontStages s))).setCycles (s.cycles + 1))) := by
  rw [cycleClear_iff]
  unfold commitCycle
  cases unforwarded s <;> cases s.fetchAllowed <;> simp

/-- What a committed cycle answers. -/
theorem commitCycle_next (f : State → State) (h : commitCycle s f = .next t) :
    s.CycleClear ∧ t = (writebackStage s (f (frontStages s))).setCycles (s.cycles + 1) := by
  rcases commitCycle_cases s f with ⟨_, e⟩ | ⟨_, _, e⟩ | ⟨hc, e⟩ <;> rw [e] at h
  · cases h
  · cases h
  · cases h
    exact ⟨hc, rfl⟩

/-- What the address check of LW and SW answers (20_memory.md R35). -/
theorem withDataAddress_cases (f : Nat → Host.Outcome State Fault Refusal) :
    (addressInRange s.exmem.aluResult = true ∧ withDataAddress s f = f s.exmem.aluResult.toNat) ∨
    (addressInRange s.exmem.aluResult = false ∧
      withDataAddress s f = .fault (.dataAddressOutOfRange s.exmem.aluResult)) := by
  unfold withDataAddress
  cases addressInRange s.exmem.aluResult <;> simp

/-- Everything the step can do (47_pipeline_driver.md R151, R155). -/
theorem step_cases :
    (s.halted = true ∧ step s = .next s) ∨
    (s.halted = false ∧ (∃ e, decode s.exmem.instr = .error e) ∧
      step s = .fault (.illegalInstruction s.exmem.instr)) ∨
    (s.halted = false ∧ ∃ i, decode s.exmem.instr = .ok i ∧ step s = exec i s) := by
  unfold step commitSlot
  cases hh : s.halted
  · cases hd : decode s.exmem.instr <;> simp
  · simp

end Sys2Proof.Machine
end

