-- ==== Sys2Proof/Laws/Exec.lean ====
section
/-! SUPPORT. What the MEM stages, the meanings and the loader's pieces can do, each said once. -/

namespace Sys2Proof.Machine

variable (s n t : State)

/-! ### The MEM stages -/

/-- Everything a BEQ's MEM stage can do (46_branch_squash.md R141 to R144). -/
theorem resolveBranch_cases (w aluResult target : Word) :
    (aluResult = 0 ∧ resolveBranch w aluResult target n = redirectAndSquash target (intoMemwb w 0 n)) ∨
    (aluResult ≠ 0 ∧ resolveBranch w aluResult target n = intoMemwb w 0 n) := by
  unfold resolveBranch resultIsZero
  by_cases h : aluResult = 0#32
  · simp [h]
  · exact .inr ⟨h, by rw [if_neg (by simpa using h)]⟩

@[simp] theorem storeWord_dmem (w : Word) (a : Nat) (v : Word) :
    (storeWord w a v n).dmem = n.dmem.write a v := rfl

@[simp] theorem storeWord_memwb (w : Word) (a : Nat) (v : Word) :
    (storeWord w a v n).memwb = { instr := w, writeData := 0 } := rfl

@[simp] theorem loadWord_memwb (w : Word) (r : Reg) (v : Word) :
    (loadWord w r v n).memwb = { instr := w, writeData := v } := by simp [loadWord]

@[simp] theorem loadWord_dmem (w : Word) (r : Reg) (v : Word) : (loadWord w r v n).dmem = n.dmem := by simp [loadWord]

/-! ### The meanings: what a committed cycle of each was -/

/-- The MEM stage of the instruction at the commit point, as the cycle around it sees it. -/
theorem exec_next (i : Instr) (h : exec i s = .next t) :
    s.CycleClear ∧ ∃ memStage, t = (writebackStage s (memStage (frontStages s))).setCycles (s.cycles + 1) ∧
      ((i.opcode = .add ∨ i.opcode = .nor) ∧ memStage = intoMemwb (encode i) s.exmem.aluResult ∨
        (∃ a b offset, i = .lw a b offset ∧ addressInRange s.exmem.aluResult = true ∧
          memStage = loadWord (encode i) b (s.dmem.read s.exmem.aluResult.toNat)) ∨
        (i.opcode = .sw ∧ addressInRange s.exmem.aluResult = true ∧
          memStage = storeWord (encode i) s.exmem.aluResult.toNat s.exmem.readRegB) ∨
        (i.opcode = .beq ∧ memStage = resolveBranch (encode i) s.exmem.aluResult s.exmem.branchTarget) ∨
        (i.opcode = .halt ∨ i.opcode = .noop) ∧ memStage = intoMemwb (encode i) 0) := by
  cases i with
  | add a b d =>
    obtain ⟨h1, h2⟩ := commitCycle_next _ _ _ h
    exact ⟨h1, _, h2, .inl ⟨.inl rfl, rfl⟩⟩
  | nor a b d =>
    obtain ⟨h1, h2⟩ := commitCycle_next _ _ _ h
    exact ⟨h1, _, h2, .inl ⟨.inr rfl, rfl⟩⟩
  | lw a b offset =>
    simp only [exec, execLw] at h
    rcases withDataAddress_cases s
      (fun ea => commitCycle s (loadWord (encode (.lw a b offset)) b (s.dmem.read ea))) with ⟨hr, e⟩ | ⟨_, e⟩ <;>
      rw [e] at h
    · obtain ⟨h1, h2⟩ := commitCycle_next _ _ _ h
      exact ⟨h1, _, h2, .inr (.inl ⟨a, b, offset, rfl, hr, rfl⟩)⟩
    · cases h
  | sw a b offset =>
    simp only [exec, execSw] at h
    rcases withDataAddress_cases s
      (fun ea => commitCycle s (storeWord (encode (.sw a b offset)) ea s.exmem.readRegB)) with ⟨hr, e⟩ | ⟨_, e⟩ <;>
      rw [e] at h
    · obtain ⟨h1, h2⟩ := commitCycle_next _ _ _ h
      exact ⟨h1, _, h2, .inr (.inr (.inl ⟨rfl, hr, rfl⟩))⟩
    · cases h
  | beq a b offset =>
    obtain ⟨h1, h2⟩ := commitCycle_next _ _ _ h
    exact ⟨h1, _, h2, .inr (.inr (.inr (.inl ⟨rfl, rfl⟩)))⟩
  | jalr a b unused => cases h
  | halt unused =>
    obtain ⟨h1, h2⟩ := commitCycle_next _ _ _ h
    exact ⟨h1, _, h2, .inr (.inr (.inr (.inr ⟨.inl rfl, rfl⟩)))⟩
  | noop unused =>
    obtain ⟨h1, h2⟩ := commitCycle_next _ _ _ h
    exact ⟨h1, _, h2, .inr (.inr (.inr (.inr ⟨.inr rfl, rfl⟩)))⟩

/-- `Cycle` answers `Next` when the machine is not halted, the word in MEM is an instruction, and its meaning answers a
next state. -/
theorem cycles_iff :
    s.Cycles t ↔ s.halted = false ∧ ∃ i, decode s.exmem.instr = .ok i ∧ exec i s = .next t := by
  unfold State.Cycles cycle
  rcases step_cases s with ⟨h, e⟩ | ⟨h, ⟨_, hd⟩, e⟩ | ⟨h, i, hd, e⟩
  · simp [h]
  · simp [h, e, hd]
  · cases he : exec i s <;> simp [h, e, hd, he]

/-! ### The loader -/

/-- What the checked words of an image are (70_reset_and_hazards.md R205). -/
theorem imageWords_ok (index : Nat) (image : List Int) (ws : List Word) (h : imageWords index image = .ok ws) :
    (∀ v ∈ image, fitsWord v = true) ∧ ws = image.map wrap32 := by
  induction image generalizing index ws with
  | nil =>
    cases h
    exact ⟨by simp, rfl⟩
  | cons v vs ih =>
    unfold imageWords at h
    split at h
    · next hv =>
      split at h
      · next ws' hw =>
        cases h
        obtain ⟨h1, h2⟩ := ih _ _ hw
        exact ⟨by simpa [hv] using h1, by simp [h2]⟩
      · cases h
    · cases h

/-- Every image whose literals are words has its words. -/
theorem imageWords_of_fits (index : Nat) (image : List Int) (h : ∀ v ∈ image, fitsWord v = true) :
    imageWords index image = .ok (image.map wrap32) := by
  induction image generalizing index with
  | nil => rfl
  | cons v vs ih =>
    have hv : fitsWord v = true := h v (by simp)
    simp [imageWords, hv, ih (index + 1) fun w hw => h w (by simp [hw])]

end Sys2Proof.Machine
end

