-- ==== Sys2Proof/Laws/PerInstr.lean ====
section
/-! SUPPORT. Statements about every instruction as syntax, one lemma for each constructor. -/

namespace Sys2Proof.Laws.OpcodeField

/-- An instruction's word carries its opcode in bits 24 to 22 and zeros in bits 31 to 25 (30_encoding.md R51, R57). -/
def Statement (i : Instr) : Prop := opcodeOf (encode i) = i.opcode ∧ highBits (encode i) = 0#7

theorem add (a b d : Reg) : Statement (.add a b d) := by simp [Statement, encode, Instr.opcode]
theorem nor (a b d : Reg) : Statement (.nor a b d) := by simp [Statement, encode, Instr.opcode]
theorem lw (a b : Reg) (offset : Int) : Statement (.lw a b offset) := by simp [Statement, encode, Instr.opcode]
theorem sw (a b : Reg) (offset : Int) : Statement (.sw a b offset) := by simp [Statement, encode, Instr.opcode]
theorem beq (a b : Reg) (offset : Int) : Statement (.beq a b offset) := by simp [Statement, encode, Instr.opcode]
theorem jalr (a b : Reg) (unused : Half) : Statement (.jalr a b unused) := by simp [Statement, encode, Instr.opcode]
theorem halt (unused : BitVec 22) : Statement (.halt unused) := by simp [Statement, encode, Instr.opcode]
theorem noop (unused : BitVec 22) : Statement (.noop unused) := by simp [Statement, encode, Instr.opcode]

end Sys2Proof.Laws.OpcodeField
end

