-- ==== Sys2Proof/Tests/Slice0.lean ====
section
/-! SUPPORT. The model's own tests. Expected values are those of 95_test_vectors.md (named at each test) or worked by hand
from the rules; words are written out bit by bit from the formats of 30_encoding.md R53. Then one witness for each statement
that has hypotheses: a state and operands that meet them all. -/

namespace Sys2Proof.Tests

open Sys2Proof.Machine

/-! ### Well-formedness: an ill-formed term for each check, at both ends of the range (R53) -/

theorem test_wf_lw_above : (Instr.lw 0 1 32768).wf = false := by decide
theorem test_wf_lw_below : (Instr.lw 0 1 (-32769)).wf = false := by decide
theorem test_wf_sw_above : (Instr.sw 0 1 32768).wf = false := by decide
theorem test_wf_sw_below : (Instr.sw 0 1 (-32769)).wf = false := by decide
theorem test_wf_beq_above : (Instr.beq 0 1 32768).wf = false := by decide
theorem test_wf_beq_below : (Instr.beq 0 1 (-32769)).wf = false := by decide
theorem test_wf_ends : (Instr.lw 7 7 32767).wf = true ∧ (Instr.lw 7 7 (-32768)).wf = true := by decide

/-! ### The codec: every constructor's word written out, in both directions (95_test_vectors.md section 2.1) -/

theorem test_decode_add : decodeTableWord 32 0b0000000_000_001_001_0000000000000_010 = some (.add 1 1 2) := by decide
theorem test_decode_nor : decodeTableWord 32 0b0000000_001_001_010_0000000000000_011 = some (.nor 1 2 3) := by decide
theorem test_decode_lw : decodeTableWord 32 0b0000000_010_000_001_1111111111111111 = some (.lw 0 1 (-1)) := by decide
theorem test_decode_lw_least : decodeTableWord 32 0b0000000_010_111_111_1000000000000000 = some (.lw 7 7 (-32768)) := by
  decide
theorem test_decode_sw : decodeTableWord 32 0b0000000_011_001_011_0000000000010000 = some (.sw 1 3 16) := by decide
theorem test_decode_beq : decodeTableWord 32 0b0000000_100_000_000_1111111111111100 = some (.beq 0 0 (-4)) := by decide
theorem test_decode_jalr : decodeTableWord 32 0b0000000_101_100_111_0000000000000000 = some (.jalr 4 7 0) := by decide
theorem test_decode_halt : decodeTableWord 32 0b0000000_110_0000000000000000000000 = some (.halt 0) := by decide
/-- Unused fields hold any value (R59): word 27262981 of the table. -/
theorem test_decode_halt_unused : decodeTableWord 32 0b0000000_110_100_000_0000000000000101 = some (.halt 0x200005) := by
  decide
theorem test_decode_noop : decodeTableWord 32 0b0000000_111_0000000000000000000000 = some (.noop 0) := by decide
theorem test_decode_noop_largest : decodeTableWord 32 33554431 = some (.noop 0x3FFFFF) := by decide

theorem test_encode_add : encode (.add 7 7 7) = 4128775#32 := by decide
theorem test_encode_nor : encode (.nor 1 2 3) = 4849667#32 := by decide
theorem test_encode_lw : encode (.lw 7 7 (-32768)) = 12550144#32 := by decide
theorem test_encode_sw : encode (.sw 1 3 16) = 13303824#32 := by decide
theorem test_encode_beq : encode (.beq 0 0 (-1)) = 16842751#32 := by decide
theorem test_encode_jalr : encode (.jalr 0 1 0) = 21037056#32 := by decide
theorem test_encode_halt : encode (.halt 0) = 25165824#32 := by decide
theorem test_encode_noop : encode (.noop 0) = Config.noopInstr := by decide

/-- Words that are no instruction are rejected by name (R58): 2^25, -1, 8, 77. -/
theorem test_decode_invalid :
    decode 33554432 = .error .highBitsNotZero ∧ decode (-1) = .error .highBitsNotZero ∧
      decode 8 = .error .destPaddingNotZero ∧ decode 77 = .error .destPaddingNotZero := by decide

/-- The projections read an invalid word like any other (R54, R64): -1 reads as NOOP r7,r7. -/
theorem test_fields_of_invalid : opcodeOf (-1) = .noop ∧ regA (-1) = 7 ∧ regB (-1) = 7 ∧ opcodeOf 77 = .add := by decide

/-- E1: sign extension at its corners. -/
theorem test_sext16 :
    (sext16 32767).toInt = 32767 ∧ (sext16 32768).toInt = -32768 ∧ (sext16 65535).toInt = -1 := by decide

/-! ### Small states -/

/-- Registers r0 to r7 at 3, 4, 0, 5, 65535, 65536, 65534, -1. -/
def regs : RegFile := #v[3, 4, 0, 5, 65535, 65536, 65534, 0xFFFFFFFF]

/-- A drained pipeline in front of a HALT at address 100, with data at 3, 7 and 65535. -/
def base : State :=
  { State.reset with
    pc := 100
    reg := regs
    imem := [(100, encode (.halt 0))]
    dmem := [(3, 33), (7, 77), (65535, 99)] }

/-- `base` with an instruction in MEM, as `withFetchWord` places it. -/
def atMem (i : Instr) : State := base.withFetchWord 32 (encode i).toNat

/-- `base` with an instruction in EX, its operands read from the registers. -/
def atEx (i : Instr) : State := base.setIdex (decodeLatch regs { instr := encode i, pcPlus1 := 21 })

/-- The state with an instruction in ID. -/
def withId (i : Instr) (s : State) : State := s.setIfid { instr := encode i, pcPlus1 := 22 }

/-- The state with a register writer and its value in WB. -/
def withWb (i : Instr) (v : Word) (s : State) : State := s.setMemwb { instr := encode i, writeData := v }

/-- The state after a cycle, or the reset state where the cycle answers none. -/
def nextOf (s : State) : State :=
  match cycle s with
  | .next t => t
  | .halted _ => State.reset
  | .fault _ => State.reset
  | .refused _ => State.reset

/-- `nextOf` a number of times. -/
def after : Nat → State → State
  | 0, s => s
  | k + 1, s => after k (nextOf s)

/-! ### Each instruction: one cycle in MEM, or one in EX (section 2.3) -/

theorem test_add_wraps :
    aluResult .add { bubbleIdex with readRegA := 2147483647, readRegB := 1 } = 0x80000000 ∧
      aluResult .add { bubbleIdex with readRegA := 0x80000000, readRegB := 0xFFFFFFFF } = 2147483647 := by decide
theorem test_add_commits : (nextOf (atMem (.add 0 1 2))).memwb = { instr := encode (.add 0 1 2), writeData := 7 } := by
  decide
theorem test_nor_result :
    (aluResult .nor { bubbleIdex with readRegA := 5, readRegB := 3 }).toInt = -8 ∧
      (aluResult .nor { bubbleIdex with readRegA := 252645135, readRegB := BitVec.ofInt 32 (-252706816) }).toInt = 61680 := by
  decide
theorem test_nor_commits : (nextOf (atMem (.nor 3 0 1))).memwb.writeData.toInt = -8 := by decide
/-- 65536 - 1 is the last address. -/
theorem test_lw_last_address : (nextOf (atMem (.lw 5 2 (-1)))).memwb.writeData = 99 := by decide
theorem test_lw_faults : cycle (atMem (.lw 7 1 0)) = .fault (.dataAddressOutOfRange 0xFFFFFFFF) := by decide
theorem test_sw_stores_regB :
    (nextOf (atMem (.sw 0 1 1))).dmem.read 4 = 4 ∧ (nextOf (atMem (.sw 0 1 1))).dmem.read 3 = 33 := by decide
theorem test_sw_faults : cycle (atMem (.sw 5 1 0)) = .fault (.dataAddressOutOfRange 65536) := by decide
/-- At 100, as if fetched there: target 100 + 1 - 4. -/
theorem test_beq_taken :
    (nextOf (atMem (.beq 3 3 (-4)))).pc = 97 ∧ (nextOf (atMem (.beq 3 3 (-4)))).ifid = bubbleIfid := by decide
theorem test_beq_not_taken :
    (nextOf (atMem (.beq 3 1 1))).pc = 101 ∧ (nextOf (atMem (.beq 3 1 1))).ifid.instr = encode (.halt 0) := by decide
theorem test_jalr_refused : cycle (atMem (.jalr 0 1 0)) = .refused .jalrNotSpecified := by decide
theorem test_halt_reports : cycle (nextOf (atMem (.halt 0x200005))) = .halted 1 := by decide
theorem test_halted_step :
    step (nextOf (atMem (.halt 0))) = .next (nextOf (atMem (.halt 0))) := rfl
theorem test_noop_moves_on : (nextOf (atMem (.noop 9))).memwb.instr = encode (.noop 9) := by decide

/-- A word in WB writes its register, r0 like any other (10_state.md R11). -/
theorem test_writeback_r0 : (nextOf (withWb (.lw 3 0 0) 42 base)).reg = regs.write 0 42 := by decide
theorem test_writeback_sw : (nextOf (withWb (.sw 3 0 0) 42 base)).reg = regs := by decide

/-! ### The memory form, the detector, the three paths, the checks in front of a cycle -/

/-- Writing 0, what an unlisted address reads as, removes the entry. -/
theorem test_memory_canonical :
    Memory.write [(3, 33), (7, 77)] 7 0 = [(3, 33)] ∧ Memory.write [(3, 33), (7, 77)] 5 1 = [(3, 33), (5, 1), (7, 77)] := by
  decide

/-- Rows of the table of section 2.2. -/
theorem test_detector :
    isLoadUseHazard (encode (.add 2 1 3)) (encode (.lw 0 1 0)) = true ∧
      isLoadUseHazard (encode (.add 2 3 1)) (encode (.lw 0 1 0)) = false ∧
      isLoadUseHazard (encode (.lw 2 1 0)) (encode (.lw 0 1 0)) = false ∧
      isLoadUseHazard (encode (.sw 2 1 0)) (encode (.lw 0 1 0)) = false ∧
      isLoadUseHazard (encode (.sw 1 2 0)) (encode (.lw 0 1 0)) = true ∧
      isLoadUseHazard (encode (.jalr 1 1 0)) (encode (.lw 0 1 0)) = false ∧
      isLoadUseHazard 77 (encode (.lw 0 0 0)) = true ∧
      isLoadUseHazard (encode (.add 1 1 2)) (encode (.sw 0 1 0)) = false := by decide

/-- Path 1 (E4): the ADD behind an ADD reads its result, 7, and not the register's 0. -/
theorem test_path1 : (nextOf (withId (.add 2 0 1) (atEx (.add 0 1 2)))).idex.readRegA = 7 := by decide
/-- Path 2: two behind a LW. -/
theorem test_path2 : (nextOf (withId (.add 2 0 1) (atMem (.lw 0 2 0)))).idex.readRegA = 33 := by decide
/-- Path 2, store data: a SW right behind a LW. -/
theorem test_store_override :
    (nextOf ((atMem (.lw 0 2 0)).setIdex (decodeLatch regs { instr := encode (.sw 0 2 0), pcPlus1 := 21 }))).exmem.readRegB = 33 := by
  decide
/-- Path 3: three behind a LW. -/
theorem test_path3 : (nextOf (withId (.add 2 0 1) (withWb (.lw 0 2 0) 33 base))).idex.readRegA = 33 := by decide
/-- No path from an ADD in MEM: the old value is read and marked (R212, R214). -/
theorem test_no_path : (nextOf (withId (.beq 2 0 1) (atMem (.add 0 1 2)))).idex.readRegA = 0 ∧
    (nextOf (withId (.beq 2 0 1) (atMem (.add 0 1 2)))).idex.badA = true := by decide
/-- Both paths on one operand: the later step stays (R126, R213). -/
theorem test_later_path_stays :
    (nextOf (withWb (.lw 0 2 0) 55 (withId (.add 2 0 1) (atEx (.add 0 1 2))))).idex.readRegA = 55 := by decide

theorem test_invalid_in_mem :
    cycle (base.setExmem { bubbleExmem with instr := 77 }) = .fault (.illegalInstruction 77) := by decide
theorem test_fetch_fault : cycle (base.setPc 65536) = .fault (.fetchAddressOutOfRange 65536) := by decide
theorem test_strict_fault :
    cycle { base with rawPolicy := .strict, exmem := { bubbleExmem with bad := true } } = .fault .unforwardedHazard := by
  decide

/-! ### Reset and load -/

theorem test_parse_image : parseImage ("8454144\n-1\n".toList) = .ok [8454144, -1] := by decide
theorem test_parse_error : parseImage ("1\n2x\n".toList) = .error (.format 1) := by decide
theorem test_literal_too_large : loadImage .literal regs [0, 2147483648] = .error (.literalOutOfRange 1) := by decide
/-- What an unfilled memory reads as, 0, is ADD r0,r0,r0: a valid word (section 2.1, notes). -/
theorem test_unlisted_decodes : decode unlistedWord = .ok (.add 0 0 0) := by decide

/-! ### Witnesses: the hypotheses of each statement, met together -/

theorem witness_DecodeOfEncodeGivesTheInstruction :
    (Instr.lw 7 7 (-32768)).wf = true ∧ (Instr.sw 1 3 32767).wf = true ∧ (Instr.beq 0 0 (-1)).wf = true ∧
      (Instr.add 1 1 2).wf = true := by decide

theorem witness_EncodeOfDecodeGivesTheWord :
    decode 33554431 = .ok (.noop 0x3FFFFF) ∧ decode 8519679 = .ok (.lw 0 1 (-1)) ∧ decode 7 = .ok (.add 0 0 7) := by
  decide

theorem witness_StepRunsTheDecodedInstruction :
    ((atMem (.add 0 1 2)).halted = false ∧ decode (atMem (.add 0 1 2)).exmem.instr = .ok (.add 0 1 2)) ∧
      ((base.setExmem { bubbleExmem with instr := 77 }).halted = false ∧ decode 77 = .error .destPaddingNotZero) ∧
      (withWb (.halt 0) 0 base).halted = true := by decide

theorem witness_PlacedWordIsTheOneRun :
    base.halted = false ∧ decodeTableWord 32 8454144 = some (.lw 0 1 0) := by decide

theorem witness_HaltCheckReportsTheCycleCounter :
    cycle { withWb (.halt 5) 0 base with cycles := 9 } = .halted 9 := by decide

theorem witness_HaltedMachineStaysAsItIs : (withWb (.halt 5) 0 base).halted = true := by decide

/-- Two states for each clause where it has a range, at its ends. -/
theorem witness_CycleOutcomesFollowTheStatedOrder :
    (let s := base.setExmem { bubbleExmem with instr := 33554432 }
     s.halted = false ∧ valid s.exmem.instr = false) ∧
    (let s := atMem (.jalr 0 1 0)
     s.halted = false ∧ valid s.exmem.instr = true ∧ opcodeOf s.exmem.instr = .jalr) ∧
    (∀ s ∈ [atMem (.lw 5 1 0), atMem (.sw 7 1 0)],
      s.halted = false ∧ valid s.exmem.instr = true ∧ (opcodeOf s.exmem.instr = .lw ∨ opcodeOf s.exmem.instr = .sw) ∧
        addressInRange s.exmem.aluResult = false ∧ s.exmem.aluResult ∈ [(65536 : Word), 0xFFFFFFFF]) ∧
    (∀ e ∈ [(atMem (.lw 4 1 0)).exmem, (atMem (.sw 2 1 0)).exmem],
      let s := { base with exmem := { e with bad := true }, rawPolicy := .strict }
      s.halted = false ∧ valid s.exmem.instr = true ∧ opcodeOf s.exmem.instr ≠ .jalr ∧
        addressInRange s.exmem.aluResult = true ∧ s.exmem.aluResult ∈ [(0 : Word), 65535] ∧ s.rawPolicy = .strict ∧
        s.exmem.bad = true) ∧
    (∀ s ∈ [base.setPc 65536, base.setPc 0xFFFFFFFF],
      s.halted = false ∧ valid s.exmem.instr = true ∧ opcodeOf s.exmem.instr = .noop ∧ s.rawPolicy = .literal ∧
        s.stalls = false ∧ addressInRange s.pc = false) ∧
    (∀ s ∈ [base.setPc 65535, base.setPc 0, (withId (.add 2 2 2) (atEx (.lw 0 2 0))).setPc 65536],
      s.halted = false ∧ valid s.exmem.instr = true ∧ opcodeOf s.exmem.instr = .noop ∧ s.rawPolicy = .literal ∧
        (s.stalls = true ∨ addressInRange s.pc = true)) := by decide

/-- `base` has the invariant. -/
theorem base_inv : base.Inv :=
  ⟨by decide, by decide, by decide, by decide, by decide, by decide, by decide, by decide⟩

theorem witness_EveryStepKeepsTheInvariant :
    (withWb (.lw 0 2 0) 33 (atMem (.sw 0 1 1))).Inv ∧
      step (withWb (.lw 0 2 0) 33 (atMem (.sw 0 1 1))) = .next (nextOf (withWb (.lw 0 2 0) 33 (atMem (.sw 0 1 1)))) :=
  ⟨⟨by decide, by decide, by decide, by decide, by decide, by decide, by decide, by decide⟩, rfl⟩

/-- The image of T2 and its state after reset. -/
def image2 : List Int := [8454144, 589826, 25165824]

/-- The loaded state of `image2`. -/
def loaded2 : State := State.withImage .literal (Vector.replicate 8 0) [8454144, 589826, 25165824]

theorem witness_LoadedStateHasTheInvariant : loadImage .literal (Vector.replicate 8 0) image2 = .ok loaded2 := by decide

theorem witness_LoadedStateHoldsTheImage :
    loadImage .strict regs [-2147483648, 0, 2147483647] =
      .ok (State.withImage .strict regs [0x80000000, 0, 0x7FFFFFFF]) := by decide

/-- At both ends of the address range of a fetch, on a stall, and under the strict policy. -/
theorem witness_ArithmeticCommitsItsAluResult :
    ((atMem (.add 0 1 2)).setPc 0).CycleClear ∧ ((atMem (.nor 0 1 2)).setPc 65535).CycleClear ∧
      (withId (.add 2 2 2) ((atEx (.lw 0 2 0)).setPc 65536)).CycleClear ∧
      { atMem (.add 0 1 2) with rawPolicy := .strict }.CycleClear := by decide

theorem witness_LoadCommitsTheWordItReads :
    ((atMem (.lw 5 2 (-1))).CycleClear ∧ addressInRange (atMem (.lw 5 2 (-1))).exmem.aluResult = true ∧
        (atMem (.lw 5 2 (-1))).exmem.aluResult = 65535) ∧
      (let s := (atMem (.lw 2 2 0)).setIdex (decodeLatch regs { instr := encode (.sw 0 2 0), pcPlus1 := 21 })
       s.CycleClear ∧ addressInRange s.exmem.aluResult = true ∧ s.exmem.aluResult = 0 ∧
        opcodeOf s.idex.instr = .sw ∧ regB s.idex.instr = 2) := by decide

theorem witness_StoreCommitsOneWord :
    (atMem (.sw 4 1 0)).CycleClear ∧ addressInRange (atMem (.sw 4 1 0)).exmem.aluResult = true ∧
      (atMem (.sw 4 1 0)).exmem.aluResult = 65535 ∧ (atMem (.sw 4 1 0)).dmem.wf := by decide

theorem witness_AccessOutsideTheMemoryFaults :
    ¬ (0 ≤ (atMem (.lw 5 1 0)).exmem.aluResult.toInt ∧ (atMem (.lw 5 1 0)).exmem.aluResult.toInt ≤ 65535) ∧
      ¬ (0 ≤ (atMem (.sw 7 1 0)).exmem.aluResult.toInt ∧ (atMem (.sw 7 1 0)).exmem.aluResult.toInt ≤ 65535) := by decide

theorem witness_TakenBranchRedirectsAndSquashes :
    ((atMem (.beq 3 3 (-4))).CycleClear ∧ (atMem (.beq 3 3 (-4))).exmem.aluResult = 0) ∧
      (let s := withId (.add 2 2 2) ((atMem (.beq 3 3 (-4))).setIdex (decodeLatch regs { instr := encode (.lw 0 2 0), pcPlus1 := 21 }))
       s.CycleClear ∧ s.exmem.aluResult = 0 ∧ s.stalls = true) := by decide

theorem witness_BranchNotTakenChangesNothingElse :
    (atMem (.beq 3 1 1)).CycleClear ∧ (atMem (.beq 3 1 1)).exmem.aluResult ≠ 0 := by decide

theorem witness_HaltCommitsAndEndsTheRun : (atMem (.halt 0)).CycleClear ∧ (atMem (.halt 0x3FFFFF)).CycleClear := by
  decide

theorem witness_NoopCommitsAndChangesNothing : (atMem (.noop 0)).CycleClear := by decide

theorem witness_ArithmeticResultReachesItsRegister :
    (let s := atEx (.add 0 1 2)
     s.takesBranch = false ∧ s.Cycles (after 1 s) ∧ (after 1 s).Cycles (after 2 s) ∧ (after 2 s).Cycles (after 3 s) ∧
      s.idex.instr = encode (.add 0 1 2)) ∧
    (let s := atEx (.nor 3 0 0)
     s.takesBranch = false ∧ s.Cycles (after 1 s) ∧ (after 1 s).Cycles (after 2 s) ∧ (after 2 s).Cycles (after 3 s) ∧
      s.idex.instr = encode (.nor 3 0 0)) := by decide

theorem witness_LoadedWordReachesItsRegister :
    let s := atEx (.lw 5 2 (-1))
    s.takesBranch = false ∧ s.idex.instr = encode (.lw 5 2 (-1)) ∧ s.Cycles (after 1 s) ∧
      (after 1 s).Cycles (after 2 s) ∧ (after 2 s).Cycles (after 3 s) := by decide

/-- Without and with a LW of the store data just ahead; both states have the invariant. -/
theorem witness_StoreReachesTheMemory :
    (let s := atEx (.sw 4 1 0)
     s.takesBranch = false ∧ s.idex.instr = encode (.sw 4 1 0) ∧ s.Cycles (after 1 s) ∧
      (after 1 s).Cycles (after 2 s)) ∧
    (let s := (atMem (.lw 0 2 0)).setIdex (decodeLatch regs { instr := encode (.sw 0 2 0), pcPlus1 := 21 })
     s.takesBranch = false ∧ s.idex.instr = encode (.sw 0 2 0) ∧ loadWrites s.exmem.instr 2 = true ∧
      s.Cycles (after 1 s) ∧ (after 1 s).Cycles (after 2 s)) := by decide

theorem witness_StoreReachesTheMemory_inv :
    (atEx (.sw 4 1 0)).Inv ∧
      ((atMem (.lw 0 2 0)).setIdex (decodeLatch regs { instr := encode (.sw 0 2 0), pcPlus1 := 21 })).Inv :=
  ⟨⟨by decide, by decide, by decide, by decide, by decide, by decide, by decide, by decide⟩,
    ⟨by decide, by decide, by decide, by decide, by decide, by decide, by decide, by decide⟩⟩

/-- Taken; not taken; not taken with a stall behind it. -/
theorem witness_BranchComparesItsOperands :
    (let s := atEx (.beq 3 3 (-4))
     s.takesBranch = false ∧ s.idex.instr = encode (.beq 3 3 (-4)) ∧ s.Cycles (after 1 s) ∧
      (after 1 s).Cycles (after 2 s) ∧ s.idex.readRegA = s.idex.readRegB) ∧
    (let s := atEx (.beq 3 1 1)
     s.takesBranch = false ∧ s.idex.instr = encode (.beq 3 1 1) ∧ s.Cycles (after 1 s) ∧
      (after 1 s).Cycles (after 2 s) ∧ s.idex.readRegA ≠ s.idex.readRegB ∧ (after 1 s).stalls = false) ∧
    (let s := withId (.lw 0 2 0) ((atEx (.beq 3 1 1)).setPc 8)
     let u := { s with imem := [(8, encode (.add 2 2 2))] }
     u.takesBranch = false ∧ u.idex.instr = encode (.beq 3 1 1) ∧ u.Cycles (after 1 u) ∧
      (after 1 u).Cycles (after 2 u) ∧ (after 1 u).stalls = true) := by decide

/-- `base` with one instruction to fetch. -/
def alone (i : Instr) : State := { base with imem := [(100, encode i)] }

theorem witness_LoneInstructionMeetsItsSequentialMeaning :
    ∀ i ∈ [Instr.add 0 1 2, .lw 5 2 (-1), .sw 4 1 0, .beq 3 3 (-4)],
      let s := alone i
      i.wf = true ∧ s.Drained ∧ s.imem.read s.pc.toNat = encode i ∧ s.Cycles (after 1 s) ∧
        (after 1 s).Cycles (after 2 s) ∧ (after 2 s).Cycles (after 3 s) ∧ (after 3 s).Cycles (after 4 s) ∧
        (after 4 s).Cycles (after 5 s) := by decide

theorem witness_HaltIsReportedFourCyclesAfterItsFetch :
    base.imem.read base.pc.toNat = encode (.halt 0) ∧ base.stalls = false ∧ base.takesBranch = false ∧
      (after 1 base).takesBranch = false ∧ (after 2 base).takesBranch = false ∧ base.Cycles (after 1 base) ∧
      (after 1 base).Cycles (after 2 base) ∧ (after 2 base).Cycles (after 3 base) ∧
      (after 3 base).Cycles (after 4 base) := by decide

theorem witness_EveryCycleHasTheCommonFrame :
    (withWb (.lw 0 2 0) 33 (atMem (.sw 0 1 1))).Cycles (nextOf (withWb (.lw 0 2 0) 33 (atMem (.sw 0 1 1)))) := by decide

theorem witness_OnlyAStoreInMemChangesDataMemory :
    (atMem (.sw 4 1 0)).Cycles (nextOf (atMem (.sw 4 1 0))) ∧ (atMem (.sw 4 1 0)).dmem.wf := by decide

theorem witness_PcTakesOneOfThreeValues :
    (atMem (.beq 3 3 (-4))).Cycles (nextOf (atMem (.beq 3 3 (-4)))) ∧ (atMem (.beq 3 3 (-4))).takesBranch = true := by
  decide

/-- A fetch at each end of the memory. -/
theorem witness_FetchCopiesTheWordAtThePc :
    ((base.setPc 0).Cycles (nextOf (base.setPc 0)) ∧ (base.setPc 0).takesBranch = false ∧
        (base.setPc 0).stalls = false) ∧
      ((base.setPc 65535).Cycles (nextOf (base.setPc 65535)) ∧ (base.setPc 65535).takesBranch = false ∧
        (base.setPc 65535).stalls = false) := ⟨⟨rfl, by decide⟩, ⟨rfl, by decide⟩⟩

/-- A stall, with a pc no fetch could use. -/
theorem witness_FetchCopiesTheWordAtThePc_stalled :
    let s := withId (.add 2 2 2) ((atEx (.lw 0 2 0)).setPc 65536)
    s.Cycles (nextOf s) ∧ s.takesBranch = false ∧ s.stalls = true := by decide

theorem witness_LoadUseHazardIsThePredicate :
    (withId (.add 2 2 2) (atEx (.lw 0 2 0))).ifid.instr = encode (.add 2 2 2) ∧
      (withId (.add 2 2 2) (atEx (.lw 0 2 0))).idex.instr = encode (.lw 0 2 0) := by decide

theorem witness_StallHoldsFetchAndInsertsABubble :
    (let s := withId (.add 2 2 2) (atEx (.lw 0 2 0))
     s.stalls = true ∧ s.Cycles (nextOf s) ∧ s.takesBranch = false) ∧
    (let s := withId (.add 2 2 2) ((atMem (.beq 3 3 (-4))).setIdex (decodeLatch regs { instr := encode (.lw 0 2 0), pcPlus1 := 21 }))
     s.stalls = true ∧ s.Cycles (nextOf s) ∧ s.takesBranch = true) := by decide

theorem witness_StallLastsOneCycle :
    let s := withId (.sw 2 2 2) (atEx (.lw 0 2 0))
    s.Cycles (nextOf s) ∧ s.stalls = true := by decide

/-- A state for each of the four sources of an operand. -/
theorem witness_OperandComesFromTheLastMatchingPath :
    ∀ s ∈ [withId (.add 2 2 1) (withWb (.lw 0 2 0) 55 base), withId (.add 2 2 1) (atMem (.lw 0 2 0)),
        withId (.add 2 2 1) (atEx (.add 0 1 2)), withId (.add 2 2 1) base],
      s.Cycles (nextOf s) ∧ s.stalls = false ∧ s.takesBranch = false ∧ srcA (opcodeOf s.ifid.instr) = true ∧
        srcB (opcodeOf s.ifid.instr) = true := by decide

theorem witness_OperandNotMarkedBadIsTheYoungestValue :
    ∀ s ∈ [withId (.add 2 2 1) (atEx (.add 0 1 2)), withId (.add 2 2 1) (withWb (.lw 0 2 0) 55 base)],
      s.Cycles (nextOf s) ∧ s.stalls = false ∧ s.takesBranch = false ∧ srcA (opcodeOf s.ifid.instr) = true ∧
        srcB (opcodeOf s.ifid.instr) = true ∧ (nextOf s).idex.badA = false ∧ (nextOf s).idex.badB = false ∧
        opcodeOf s.ifid.instr ≠ .sw := by decide

theorem witness_ShadowOfATakenBranchLeavesNothing :
    let s := atMem (.beq 3 3 (-4))
    let older := decodeLatch regs { instr := encode (.lw 0 2 0), pcPlus1 := 21 }
    s.takesBranch = true ∧ s.Cycles (nextOf s) ∧
      ((s.setIfid { instr := encode (.add 2 2 2), pcPlus1 := 22 }).setIdex older).CycleClear := by decide

theorem witness_StoreDataOverrideReachesTheStore :
    (let s := (atMem (.lw 0 2 0)).setIdex (decodeLatch regs { instr := encode (.sw 0 2 0), pcPlus1 := 21 })
     s.Cycles (nextOf s) ∧ s.takesBranch = false ∧ s.overridesStoreData = true) ∧
    (let s := atEx (.sw 0 2 0)
     s.Cycles (nextOf s) ∧ s.takesBranch = false ∧ s.overridesStoreData = false) := by decide

theorem witness_StrictPolicyChangesNoValue :
    cycle { atMem (.add 0 1 2) with rawPolicy := .strict } =
        .next (nextOf { atMem (.add 0 1 2) with rawPolicy := .strict }) ∧
      (atMem (.add 0 1 2)).exmem.bad = false ∧
      cycle { atMem (.add 0 1 2) with rawPolicy := .literal } =
        .next { nextOf (atMem (.add 0 1 2)) with rawPolicy := .literal } := by decide

/-- The sequential end of T2: three instructions, r1 and r2 loaded. -/
def last2 : ArchState :=
  { loaded2.arch with pc := 2, reg := #v[0, 8454144, 16908288, 0, 0, 0, 0, 0] }

/-- The executed path of T2. -/
def path2 : List Executed := [⟨.lw 0 1 0, false⟩, ⟨.add 1 1 2, false⟩, ⟨.halt 0, false⟩]

/-- T2, the source's example E3: a load-use stall, 7 cycles. -/
theorem witness_SafeRunsComputeTheSequentialResult :
    loadImage .literal (Vector.replicate 8 0) image2 = .ok loaded2 ∧ executedPath 3 loaded2.arch = some (path2, last2) ∧
      safePath path2 = true ∧ predictedCycles path2 = 7 := by decide

/-- No fault stops T2 within its 7 cycles. -/
theorem witness_SafeRunsComputeTheSequentialResult_clear : RunsClear (predictedCycles path2) loaded2 := by
  intro j h
  have h7 : predictedCycles path2 = 7 := by decide
  rw [h7] at h
  interval_cases j <;> exact ⟨_, rfl⟩

end Sys2Proof.Tests
end

/-! ## The state: the frame of a committed cycle, and the dead latch fields (10_state.md) -/

namespace Sys2Proof.Machine

/-! ### What a MEM stage leaves as it was -/

section MemStage

variable (n : State) (w v : Word) (r : Reg)

/-- The fields that WB alone or nothing writes: a MEM stage that leads from `n` to `m` keeps them (10_state.md R11, R24,
47_pipeline_driver.md R155). -/
structure KeepsFrame (n m : State) : Prop where
  reg : m.reg = n.reg
  imem : m.imem = n.imem
  nmem : m.nmem = n.nmem
  rawPolicy : m.rawPolicy = n.rawPolicy

theorem intoMemwb_keepsFrame : KeepsFrame n (intoMemwb w v n) := ⟨rfl, rfl, rfl, rfl⟩

theorem loadWord_keepsFrame : KeepsFrame n (loadWord w r v n) := by
  constructor <;> simp [loadWord]

theorem storeWord_keepsFrame (a : Nat) : KeepsFrame n (storeWord w a v n) := ⟨rfl, rfl, rfl, rfl⟩

theorem resolveBranch_keepsFrame (target : Word) : KeepsFrame n (resolveBranch w v target n) := by
  rcases resolveBranch_cases n w v target with ⟨_, h⟩ | ⟨_, h⟩ <;> rw [h] <;> exact ⟨rfl, rfl, rfl, rfl⟩

theorem loadWord_pc : (loadWord w r v n).pc = n.pc := by simp [loadWord]

/-- A BEQ in MEM redirects the pc exactly when it is taken (46_branch_squash.md R142, R144). -/
theorem resolveBranch_pc (target : Word) :
    (resolveBranch w v target n).pc = if resultIsZero v then target else n.pc := by
  unfold resolveBranch
  split <;> rfl

end MemStage

/-! ### Every committed cycle, around its MEM stage -/

section Committed

variable {s t : State}

/-- The decoder keeps the opcode of the word. -/
theorem opcodeOf_of_decode {w : Word} {i : Instr} (h : decode w = .ok i) : opcodeOf w = i.opcode := by
  rcases decode_cases w with ⟨_, e⟩ | ⟨_, _, _, e⟩ | ⟨_, _, e⟩ <;> rw [e] at h <;> cases h
  exact (opcode_fieldsOf w).symm

theorem takesBranch_of_ne_beq (h : opcodeOf s.exmem.instr ≠ .beq) : s.takesBranch = false := by
  simp [State.takesBranch, h]

theorem takesBranch_of_beq (h : opcodeOf s.exmem.instr = .beq) :
    s.takesBranch = resultIsZero s.exmem.aluResult := by
  simp [State.takesBranch, h]

/-- Every committed cycle is steps 2 to 4, a MEM stage that keeps the frame and moves the pc by a taken branch only, then
WB and the count (47_pipeline_driver.md R152 to R157). -/
theorem cycles_memStage (h : s.Cycles t) :
    ∃ m, t = (writebackStage s m).setCycles (s.cycles + 1) ∧ KeepsFrame (frontStages s) m ∧
      m.pc = if s.takesBranch then s.exmem.branchTarget else (frontStages s).pc := by
  obtain ⟨_, i, hd, he⟩ := (cycles_iff s t).mp h
  obtain ⟨_, f, ht, hf⟩ := exec_next s t i he
  have hop := opcodeOf_of_decode hd
  have notTaken (hne : i.opcode ≠ .beq) : s.takesBranch = false := takesBranch_of_ne_beq (hop ▸ hne)
  refine ⟨_, ht, ?_⟩
  rcases hf with ⟨hi, rfl⟩ | ⟨a, b, offset, rfl, _, rfl⟩ | ⟨hi, _, rfl⟩ | ⟨hi, rfl⟩ | ⟨hi, rfl⟩
  · have hb := notTaken (by rcases hi with hi | hi <;> simp [hi])
    exact ⟨intoMemwb_keepsFrame .., by simp [hb]⟩
  · have hb := notTaken (by simp [Instr.opcode])
    exact ⟨loadWord_keepsFrame .., by simp [hb, loadWord_pc]⟩
  · have hb := notTaken (by simp [hi])
    exact ⟨storeWord_keepsFrame .., by simp [hb, storeWord]⟩
  · rw [takesBranch_of_beq (hop.trans hi)]
    exact ⟨resolveBranch_keepsFrame .., resolveBranch_pc ..⟩
  · have hb := notTaken (by rcases hi with hi | hi <;> simp [hi])
    exact ⟨intoMemwb_keepsFrame .., by simp [hb]⟩

/-- A MEM stage that keeps the frame gives a cycle with the common frame: WB reads the old latch and registers. -/
theorem KeepsFrame.commonFrame {m : State} (h : KeepsFrame (frontStages s) m) :
    s.CommonFrame ((writebackStage s m).setCycles (s.cycles + 1)) where
  reg r := by simpa using retireWord_reg s m (by simp [h.reg]) r
  imem := by simp [h.imem]
  nmem := by simp [h.nmem]
  rawPolicy := by simp [h.rawPolicy]
  cycles := rfl
  wbend := rfl

end Committed

/-- Settles O31: the MEM stage keeps the frame, whatever instruction it runs, and WB does the rest. -/
theorem everyCycleHasTheCommonFrame : Obligations.EveryCycleHasTheCommonFrame := by
  intro s t h
  obtain ⟨m, rfl, hm, _⟩ := cycles_memStage h
  exact hm.commonFrame

/-- Settles O33: IF advances or holds the pc, a taken branch in MEM replaces that, and WB does not touch it. -/
theorem pcTakesOneOfThreeValues : Obligations.PcTakesOneOfThreeValues := by
  intro s t h
  obtain ⟨m, rfl, _, hpc⟩ := cycles_memStage h
  simp [hpc, State.nextPc]

/-! ### The live part of a latch (10_state.md R20) -/

section LiveLatches

@[simp] theorem IFID.live_instr (l : IFID) : l.live.instr = l.instr := rfl
@[simp] theorem IDEX.live_instr (l : IDEX) : l.live.instr = l.instr := rfl
@[simp] theorem EXMEM.live_instr (l : EXMEM) : l.live.instr = l.instr := rfl
@[simp] theorem MEMWB.live_instr (l : MEMWB) : l.live.instr = l.instr := rfl

/-- The opcodes with a `regA` operand are those whose ALU result is live. -/
theorem EXMEM.live_aluResult (l : EXMEM) (h : srcA (opcodeOf l.instr) = true) : l.live.aluResult = l.aluResult := by
  have hne : ¬ (opcodeOf l.instr = .jalr ∨ opcodeOf l.instr = .halt ∨ opcodeOf l.instr = .noop) := by
    rintro (e | e | e) <;> simp [e, srcA] at h
  exact if_neg hne

theorem EXMEM.live_branchTarget (l : EXMEM) (h : opcodeOf l.instr = .beq) :
    l.live.branchTarget = l.branchTarget := by
  simp [EXMEM.live, h]

theorem EXMEM.live_readRegB (l : EXMEM) (h : srcB (opcodeOf l.instr) = true) : l.live.readRegB = l.readRegB := by
  simp [EXMEM.live, h]

theorem MEMWB.live_writeData (l : MEMWB) (h : isRFormat (opcodeOf l.instr) = true ∨ opcodeOf l.instr = .lw) :
    l.live.writeData = l.writeData := by
  simp [MEMWB.live, h]

@[simp] theorem IFID.live_live (l : IFID) : l.live.live = l.live := by simp +contextual [IFID.live]
@[simp] theorem IDEX.live_live (l : IDEX) : l.live.live = l.live := by simp +contextual [IDEX.live]
@[simp] theorem EXMEM.live_live (l : EXMEM) : l.live.live = l.live := by simp +contextual [EXMEM.live]
@[simp] theorem MEMWB.live_live (l : MEMWB) : l.live.live = l.live := by simp +contextual [MEMWB.live]

/-- The ALU reads no dead field: for each opcode, the operands it takes are live. -/
theorem aluResult_live (l : IDEX) : aluResult (opcodeOf l.instr) l.live = aluResult (opcodeOf l.instr) l := by
  cases h : opcodeOf l.instr <;> simp [aluResult, IDEX.live, h, srcA, srcB]

/-- The `pcPlus1` that ID passes on is dead in `IDEX` when it was dead in `IFID`. -/
theorem live_decodeLatch (reg : RegFile) (l : IFID) (a b : Bool) :
    IDEX.live { decodeLatch reg l.live with badA := a, badB := b } =
      IDEX.live { decodeLatch reg l with badA := a, badB := b } := by
  cases h : opcodeOf l.instr <;> simp [IDEX.live, decodeLatch, IFID.live, h]

/-- What EX computes from dead fields of `IDEX` is dead in `EXMEM`. -/
theorem live_executeLatch (l : IDEX) : (executeLatch l.live).live = (executeLatch l).live := by
  cases h : opcodeOf l.instr <;> simp [executeLatch, aluResult, EXMEM.live, IDEX.live, h, srcA, srcB]

end LiveLatches

/-! ### The live part of a state -/

section LiveState

variable (s n : State)

@[simp] theorem State.live_pc : n.live.pc = n.pc := rfl
@[simp] theorem State.live_reg : n.live.reg = n.reg := rfl
@[simp] theorem State.live_dmem : n.live.dmem = n.dmem := rfl
@[simp] theorem State.live_ifid : n.live.ifid = n.ifid.live := rfl
@[simp] theorem State.live_idex : n.live.idex = n.idex.live := rfl
@[simp] theorem State.live_exmem : n.live.exmem = n.exmem.live := rfl
@[simp] theorem State.live_memwb : n.live.memwb = n.memwb.live := rfl
@[simp] theorem State.live_cycles : n.live.cycles = n.cycles := rfl

@[simp] theorem State.live_live : n.live.live = n.live := by simp [State.live]

@[simp] theorem State.live_setPc (v : Word) : (n.setPc v).live = n.live.setPc v := rfl
@[simp] theorem State.live_setReg (v : RegFile) : (n.setReg v).live = n.live.setReg v := rfl
@[simp] theorem State.live_setDmem (v : Memory) : (n.setDmem v).live = n.live.setDmem v := rfl
@[simp] theorem State.live_setIfid (v : IFID) : (n.setIfid v).live = n.live.setIfid v.live := rfl
@[simp] theorem State.live_setIdex (v : IDEX) : (n.setIdex v).live = n.live.setIdex v.live := rfl
@[simp] theorem State.live_setExmem (v : EXMEM) : (n.setExmem v).live = n.live.setExmem v.live := rfl
@[simp] theorem State.live_setMemwb (v : MEMWB) : (n.setMemwb v).live = n.live.setMemwb v.live := rfl
@[simp] theorem State.live_setWbend (v : WBEND) : (n.setWbend v).live = n.live := rfl
@[simp] theorem State.live_setCycles (v : Nat) : (n.setCycles v).live = n.live.setCycles v := rfl

/-! The detector, the ghost bits, the halt check and the fetch read instruction words, the pc and ghost bits only. -/

@[simp] theorem State.live_stalls : s.live.stalls = s.stalls := rfl
@[simp] theorem State.live_badA : s.live.badA = s.badA := rfl
@[simp] theorem State.live_badB : s.live.badB = s.badB := rfl
@[simp] theorem State.live_halted : s.live.halted = s.halted := rfl
@[simp] theorem State.live_fetchAllowed : s.live.fetchAllowed = s.fetchAllowed := rfl
@[simp] theorem unforwarded_live : unforwarded s.live = unforwarded s := rfl
theorem fetchStage_live : fetchStage s.live n = fetchStage s n := rfl

end LiveState

/-! ### Writes to the state under construction that read its live part only -/

section ReadsOnlyLive

/-- The live part of what `f` makes of a state depends on the live part of that state alone. -/
def ReadsOnlyLive (f : State → State) : Prop := ∀ n, (f n.live).live = (f n).live

theorem ReadsOnlyLive.comp {f g : State → State} (hg : ReadsOnlyLive g) (hf : ReadsOnlyLive f) :
    ReadsOnlyLive fun n => g (f n) := fun n =>
  calc (g (f n.live)).live = (g (f n.live).live).live := (hg _).symm
    _ = (g (f n).live).live := by rw [hf n]
    _ = (g (f n)).live := hg _

theorem intoMemwb_readsOnlyLive (w v : Word) : ReadsOnlyLive (intoMemwb w v) := fun n => by simp

theorem setReg_readsOnlyLive (v : RegFile) : ReadsOnlyLive fun n => n.setReg v := fun n => by simp

theorem storeWord_readsOnlyLive (w : Word) (a : Nat) (v : Word) : ReadsOnlyLive (storeWord w a v) := fun n => by
  simp [storeWord]

theorem redirectAndSquash_readsOnlyLive (target : Word) : ReadsOnlyLive (redirectAndSquash target) := fun n => by
  simp

/-- A forward reaches source fields, which are live, and keeps every other value where it is. -/
theorem forwardToIdex_readsOnlyLive (r : Reg) (v : Word) : ReadsOnlyLive (forwardToIdex r v) := fun n => by
  cases h : opcodeOf n.idex.instr <;> simp [forwardToIdex, IDEX.live, h, srcA, srcB]

theorem forwardStoreData_readsOnlyLive (r : Reg) (v : Word) : ReadsOnlyLive (forwardStoreData r v) := fun n => by
  by_cases h : opcodeOf n.exmem.instr = .sw ∧ regB n.exmem.instr = r <;>
    simp [forwardStoreData, h, EXMEM.live, srcB]

theorem loadWord_readsOnlyLive (w : Word) (r : Reg) (v : Word) : ReadsOnlyLive (loadWord w r v) :=
  (forwardStoreData_readsOnlyLive r v).comp <|
    (forwardToIdex_readsOnlyLive r v).comp (intoMemwb_readsOnlyLive w v)

theorem resolveBranch_readsOnlyLive (w v target : Word) : ReadsOnlyLive (resolveBranch w v target) := fun n => by
  unfold resolveBranch
  split
  · exact (redirectAndSquash_readsOnlyLive target).comp (intoMemwb_readsOnlyLive w 0) n
  · exact intoMemwb_readsOnlyLive w 0 n

end ReadsOnlyLive

/-! ### The stages of a cycle from the live part of its state -/

section LiveStages

variable (s n : State)

theorem fetchStage_readsOnlyLive : ReadsOnlyLive (fetchStage s) := fun n => by
  by_cases h : s.stalls = true <;> simp [fetchStage, h]

/-- ID writes the same live fields whichever of the two snapshots it reads. -/
theorem decodeStage_live : (decodeStage s.live n.live).live = (decodeStage s n).live := by
  by_cases h : s.stalls = true <;> simp [decodeStage, h, live_decodeLatch]

/-- EX and path 1: the value forwarded is an ALU result, which reads no dead field. -/
theorem executeStage_live : (executeStage s.live n.live).live = (executeStage s n).live := by
  have hlatch : (n.live.setExmem (executeLatch s.idex.live)).live = (n.setExmem (executeLatch s.idex)).live := by
    simp [live_executeLatch]
  have halu : (executeLatch s.idex.live).aluResult = (executeLatch s.idex).aluResult := aluResult_live s.idex
  unfold executeStage forwardFromExecute
  simp only [State.live_idex, IDEX.live_instr, State.setExmem_exmem, halu]
  split
  · rw [← forwardToIdex_readsOnlyLive, hlatch, forwardToIdex_readsOnlyLive]
  · exact hlatch

theorem frontStages_readsOnlyLive : ReadsOnlyLive frontStages := fun s => by
  have hfetch : (fetchStage s.live s.live).live = (fetchStage s s).live := by
    rw [fetchStage_live, fetchStage_readsOnlyLive]
  have hdecode : (decodeStage s.live (fetchStage s.live s.live)).live = (decodeStage s (fetchStage s s)).live := by
    rw [← decodeStage_live s.live, hfetch, State.live_live, decodeStage_live]
  unfold frontStages
  rw [← executeStage_live s.live, hdecode, State.live_live, executeStage_live]

/-- WB and path 3 use `MEMWB.writeData` for an ADD, NOR or LW only, where it is live. -/
theorem retireWord_live : retireWord s.live n = retireWord s n := by
  have hdata := MEMWB.live_writeData s.memwb
  unfold retireWord forwardFromWriteback
  cases h : opcodeOf s.memwb.instr <;> simp [h, hdata, isRFormat]

theorem retireWord_readsOnlyLive : ReadsOnlyLive (retireWord s) := fun n => by
  unfold retireWord
  cases opcodeOf s.memwb.instr with
  | add | nor => exact setReg_readsOnlyLive _ n
  | lw => exact (forwardToIdex_readsOnlyLive _ _).comp (setReg_readsOnlyLive _) n
  | sw | beq | jalr | halt | noop => exact n.live_live

/-- `WBEND` is dead as a whole, so WB leaves no more of `s` than its register write. -/
theorem writebackStage_live : (writebackStage s.live n).live = (writebackStage s n).live := by
  simp [writebackStage, retireWord_live]

theorem writebackStage_readsOnlyLive : ReadsOnlyLive (writebackStage s) := retireWord_readsOnlyLive s

end LiveStages

/-! ### The cycle from the live part of its state -/

section LiveCycle

variable (s : State)

/-- The outcome of a step as the outcome of a cycle, with the dead fields of its state zeroed. -/
def liveOutcome : Host.Outcome State Fault Refusal → CycleOutcome
  | .next t => .next t.live
  | .fault r => .fault r
  | .refused r => .refused r

/-- Until the machine halts, a cycle's outcome is that of the step. -/
theorem live_cycle_of_not_halted (h : s.halted = false) : (cycle s).live = liveOutcome (step s) := by
  unfold cycle
  rw [h]
  cases step s <;> rfl

/-- A cycle around a MEM stage that reads live fields only; the two faults read no dead field. -/
theorem liveOutcome_commitCycle {f : State → State} (hf : ReadsOnlyLive f) :
    liveOutcome (commitCycle s.live f) = liveOutcome (commitCycle s f) := by
  have hcommit := (writebackStage_live s _).trans
    ((writebackStage_readsOnlyLive s).comp (hf.comp frontStages_readsOnlyLive) s)
  rcases commitCycle_cases s f with ⟨hu, e⟩ | ⟨hu, ha, e⟩ | ⟨hc, e⟩
  · rw [e]
    simp [commitCycle, hu]
  · rw [e]
    simp [commitCycle, hu, ha]
  · rw [e, commitCycle_of_clear s.live f hc]
    simp [liveOutcome, hcommit]

/-- The address check of LW and SW reads the ALU result, which is live for both. -/
theorem liveOutcome_withDataAddress {f g : Nat → Host.Outcome State Fault Refusal}
    (ha : s.live.exmem.aluResult = s.exmem.aluResult) (hfg : ∀ a, liveOutcome (f a) = liveOutcome (g a)) :
    liveOutcome (withDataAddress s.live f) = liveOutcome (withDataAddress s g) := by
  unfold withDataAddress
  rw [ha]
  split
  · exact hfg _
  · rfl

/-- Each instruction's MEM stage takes from `EXMEM` the fields that are live for its opcode. -/
theorem liveOutcome_exec (i : Instr) (h : opcodeOf s.exmem.instr = i.opcode) :
    liveOutcome (exec i s.live) = liveOutcome (exec i s) := by
  have halu := s.exmem.live_aluResult
  have htarget := s.exmem.live_branchTarget
  have hdata := s.exmem.live_readRegB
  rw [h] at halu htarget hdata
  cases i with
  | add a b d =>
    simp only [exec, execAdd, State.live_exmem, halu rfl]
    exact liveOutcome_commitCycle s (intoMemwb_readsOnlyLive _ _)
  | nor a b d =>
    simp only [exec, execNor, State.live_exmem, halu rfl]
    exact liveOutcome_commitCycle s (intoMemwb_readsOnlyLive _ _)
  | lw a b offset =>
    simp only [exec, execLw]
    exact liveOutcome_withDataAddress s (halu rfl) fun _ =>
      liveOutcome_commitCycle s (loadWord_readsOnlyLive _ _ _)
  | sw a b offset =>
    simp only [exec, execSw, State.live_exmem, hdata rfl]
    exact liveOutcome_withDataAddress s (halu rfl) fun _ =>
      liveOutcome_commitCycle s (storeWord_readsOnlyLive _ _ _)
  | beq a b offset =>
    simp only [exec, execBeq, State.live_exmem, halu rfl, htarget rfl]
    exact liveOutcome_commitCycle s (resolveBranch_readsOnlyLive _ _ _)
  | jalr a b unused => rfl
  | halt unused => exact liveOutcome_commitCycle s (intoMemwb_readsOnlyLive _ _)
  | noop unused => exact liveOutcome_commitCycle s (intoMemwb_readsOnlyLive _ _)

/-- The step runs the same instruction on the live part: the word in MEM is live. -/
theorem liveOutcome_step (h : s.halted = false) : liveOutcome (step s.live) = liveOutcome (step s) := by
  unfold step commitSlot
  simp only [State.live_halted, h, State.live_exmem, EXMEM.live_instr, Bool.false_eq_true, if_false]
  cases hd : decode s.exmem.instr with
  | error e => rfl
  | ok i => exact liveOutcome_exec s i (opcodeOf_of_decode hd)

end LiveCycle

/-- Settles O42: each stage writes live fields from live fields only, and so does the MEM stage of every instruction. -/
theorem deadFieldsReachOnlyDeadFields : Obligations.DeadFieldsReachOnlyDeadFields := by
  intro s
  cases h : s.halted with
  | true => simp [cycle, h, CycleOutcome.live]
  | false => rw [live_cycle_of_not_halted s h, live_cycle_of_not_halted s.live h, liveOutcome_step s h]

end Sys2Proof.Machine

/-! ## The memories: the data-address check, the one store of a committed cycle, and the invariant (20_memory.md) -/

namespace Sys2Proof

/-! ### What the MEM stage passes on: the word of an instruction -/

section EncodedWord

variable (i : Instr)

/-- `Laws.OpcodeField` for every instruction. -/
theorem encode_opcodeField : Laws.OpcodeField.Statement i := by
  cases i with
  | add a b d => exact Laws.OpcodeField.add a b d
  | nor a b d => exact Laws.OpcodeField.nor a b d
  | lw a b offset => exact Laws.OpcodeField.lw a b offset
  | sw a b offset => exact Laws.OpcodeField.sw a b offset
  | beq a b offset => exact Laws.OpcodeField.beq a b offset
  | jalr a b unused => exact Laws.OpcodeField.jalr a b unused
  | halt unused => exact Laws.OpcodeField.halt unused
  | noop unused => exact Laws.OpcodeField.noop unused

@[simp] theorem opcodeOf_encode : opcodeOf (encode i) = i.opcode := (encode_opcodeField i).1

@[simp] theorem highBits_encode : highBits (encode i) = 0#7 := (encode_opcodeField i).2

/-- Only the two R-format words have padding to check, and the encoder leaves it zero (30_encoding.md R57, R58). -/
@[simp] theorem valid_encode : valid (encode i) = true := by
  unfold valid
  rw [highBits_encode, opcodeOf_encode]
  cases i with
  | add a b d | nor a b d => simp [encode]
  | lw | sw | beq | jalr | halt | noop => rfl

end EncodedWord

end Sys2Proof

namespace Sys2Proof.Machine

/-! ### The data-address check -/

/-- The range check, on the signed reading of the address (20_memory.md R35). -/
theorem addressInRange_iff_toInt (a : Word) : addressInRange a = true ↔ 0 ≤ a.toInt ∧ a.toInt ≤ 65535 := by
  rw [addressInRange, Config.memoryWords, Bool.and_eq_true, decide_eq_true_eq, decide_eq_true_eq]
  omega

/-- An access that fails the check stops before anything of its cycle is done (20_memory.md R35). -/
theorem withDataAddress_of_outside (s : State) (access : Nat → Host.Outcome State Fault Refusal)
    (h : addressInRange s.exmem.aluResult = false) :
    withDataAddress s access = .fault (.dataAddressOutOfRange s.exmem.aluResult) := by
  rcases withDataAddress_cases s access with ⟨hin, _⟩ | ⟨_, e⟩
  · simp [h] at hin
  · exact e

/-! ### What each MEM stage does to the data memory and to `MEMWB` -/

section BranchMemStage

variable (n : State) (w v target : Word)

@[simp] theorem resolveBranch_dmem : (resolveBranch w v target n).dmem = n.dmem := by
  rcases resolveBranch_cases n w v target with ⟨_, h⟩ | ⟨_, h⟩ <;> rw [h] <;> rfl

@[simp] theorem resolveBranch_memwb : (resolveBranch w v target n).memwb = { instr := w, writeData := 0 } := by
  rcases resolveBranch_cases n w v target with ⟨_, h⟩ | ⟨_, h⟩ <;> rw [h] <;> rfl

end BranchMemStage

section MemoryOfACycle

variable {s t : State}

/-- A committed SW stores its data at its own address, which is in the array; every other instruction leaves the data
memory as it is (41_loadstore.md R81, 20_memory.md R31). -/
theorem exec_next_dmem {i : Instr} (h : exec i s = .next t) :
    (i.opcode = .sw ∧ addressInRange s.exmem.aluResult = true ∧
        t.dmem = s.dmem.write s.exmem.aluResult.toNat s.exmem.readRegB) ∨
      (i.opcode ≠ .sw ∧ t.dmem = s.dmem) := by
  obtain ⟨_, f, rfl, hf⟩ := exec_next s t i h
  rcases hf with ⟨hi, rfl⟩ | ⟨a, b, offset, rfl, _, rfl⟩ | ⟨hi, hin, rfl⟩ | ⟨hi, rfl⟩ | ⟨hi, rfl⟩
  · exact .inr ⟨by rcases hi with hi | hi <;> simp [hi], by simp⟩
  · exact .inr ⟨by simp [Instr.opcode], by simp⟩
  · exact .inl ⟨hi, hin, by simp⟩
  · exact .inr ⟨by simp [hi], by simp⟩
  · exact .inr ⟨by rcases hi with hi | hi <;> simp [hi], by simp⟩

/-- The instruction at the commit point moves on to `MEMWB`, and it is no JALR, which is refused there
(47_pipeline_driver.md R155, 42_control.md R91). -/
theorem exec_next_memwb_instr {i : Instr} (h : exec i s = .next t) :
    i.opcode ≠ .jalr ∧ t.memwb.instr = encode i := by
  obtain ⟨_, f, rfl, hf⟩ := exec_next s t i h
  rcases hf with ⟨hi, rfl⟩ | ⟨a, b, offset, rfl, _, rfl⟩ | ⟨hi, _, rfl⟩ | ⟨hi, rfl⟩ | ⟨hi, rfl⟩
  · exact ⟨by rcases hi with hi | hi <;> simp [hi], by simp⟩
  · exact ⟨by simp [Instr.opcode], by simp⟩
  · exact ⟨by simp [hi], by simp⟩
  · exact ⟨by simp [hi], by simp⟩
  · exact ⟨by rcases hi with hi | hi <;> simp [hi], by simp⟩

/-- `exec_next_dmem` for a committed cycle, on the word in MEM. -/
theorem cycles_dmem (h : s.Cycles t) :
    (opcodeOf s.exmem.instr = .sw ∧ addressInRange s.exmem.aluResult = true ∧
        t.dmem = s.dmem.write s.exmem.aluResult.toNat s.exmem.readRegB) ∨
      (opcodeOf s.exmem.instr ≠ .sw ∧ t.dmem = s.dmem) := by
  obtain ⟨_, i, hd, he⟩ := (cycles_iff s t).mp h
  rw [opcodeOf_of_decode hd]
  exact exec_next_dmem he

/-- The word a committed cycle leaves in `MEMWB` is a valid instruction and no JALR (47_pipeline_driver.md R155). -/
theorem cycles_memwb_instr (h : s.Cycles t) : valid t.memwb.instr = true ∧ opcodeOf t.memwb.instr ≠ .jalr := by
  obtain ⟨_, i, _, he⟩ := (cycles_iff s t).mp h
  obtain ⟨hne, hw⟩ := exec_next_memwb_instr he
  simp [hw, hne]

/-! ### The invariant -/

/-- A store that passed the address check keeps the canonical form (20_memory.md R30, R35). -/
theorem cycles_dmem_wf (h : s.Cycles t) (hwf : s.dmem.wf) : t.dmem.wf := by
  rcases cycles_dmem h with ⟨_, hin, e⟩ | ⟨_, e⟩ <;> rw [e]
  · exact Memory.write_wf _ _ _ (toNat_lt_of_addressInRange _ hin) hwf
  · exact hwf

/-- The halt check keeps a HALT out of WB (47_pipeline_driver.md R151, 43_system.md R100). -/
theorem cycles_memwb_not_halt (h : s.Cycles t) : opcodeOf s.memwb.instr ≠ .halt := by
  obtain ⟨hh, _⟩ := (cycles_iff s t).mp h
  simpa [State.halted] using hh

/-- A committed cycle keeps the invariant: `WBEND` takes the `MEMWB` of a machine that has not halted, and `MEMWB` the
instruction that was just executed. -/
theorem cycles_keeps_inv (h : s.Cycles t) (hs : s.Inv) : t.Inv := by
  have frame := everyCycleHasTheCommonFrame s t h
  obtain ⟨hvalid, hjalr⟩ := cycles_memwb_instr h
  exact
    { imem_wf := frame.imem ▸ hs.imem_wf
      dmem_wf := cycles_dmem_wf h hs.dmem_wf
      nmem_le := frame.nmem ▸ hs.nmem_le
      memwb_valid := hvalid
      memwb_not_jalr := hjalr
      wbend_valid := by simpa [frame.wbend] using hs.memwb_valid
      wbend_not_jalr := by simpa [frame.wbend] using hs.memwb_not_jalr
      wbend_not_halt := by simpa [frame.wbend] using cycles_memwb_not_halt h }

/-- A step that answers a next state leaves a halted machine as it is, or is a committed cycle (log entry 1). -/
theorem step_next (h : step s = .next t) : t = s ∨ s.Cycles t := by
  rcases step_cases s with ⟨_, e⟩ | ⟨_, _, e⟩ | ⟨hh, i, hd, e⟩ <;> rw [e] at h
  · cases h
    exact .inl rfl
  · cases h
  · exact .inr ((cycles_iff s t).mpr ⟨hh, i, hd, h⟩)

end MemoryOfACycle

/-- Settles O12: a halted machine stays as it is, and a committed cycle keeps the invariant. -/
theorem everyStepKeepsTheInvariant : Obligations.EveryStepKeepsTheInvariant := by
  intro s t hs h
  rcases step_next h with rfl | hc
  · exact hs
  · exact cycles_keeps_inv hc hs

/-- Settles O32: a committed cycle leaves the data memory alone or does the one write of its SW. -/
theorem onlyAStoreInMemChangesDataMemory : Obligations.OnlyAStoreInMemChangesDataMemory := by
  intro s t h hwf x
  rcases cycles_dmem h with ⟨hsw, _, e⟩ | ⟨hsw, e⟩
  · simp [e, hsw, Memory.read_write _ _ _ _ hwf]
  · simp [e, hsw]

/-- Settles O19: LW and SW begin with the address check, which answers the fault. -/
theorem accessOutsideTheMemoryFaults : Obligations.AccessOutsideTheMemoryFaults := by
  intro a b offset s h
  have hout : addressInRange s.exmem.aluResult = false := by
    rwa [← addressInRange_iff_toInt, Bool.not_eq_true] at h
  simp only [exec, execLw, execSw]
  exact ⟨withDataAddress_of_outside s _ hout, withDataAddress_of_outside s _ hout⟩

end Sys2Proof.Machine

/-! ## The codec: the fields as arithmetic on the word's number, and decode against encode (30_encoding.md) -/

namespace Sys2Proof

/-! ### The field projections, as divisions and remainders (R51, R54) -/

section Projections

variable (w : Word)

/-- Bits `start` to `start + len - 1` of a word; every projection of R54 is one of these. -/
theorem toNat_bits (start len : Nat) : (w.extractLsb' start len).toNat = w.toNat / 2 ^ start % 2 ^ len := by
  rw [BitVec.extractLsb'_toNat, Nat.shiftRight_eq_div_pow]

theorem toNat_lowBits (len : Nat) : (w.extractLsb' 0 len).toNat = w.toNat % 2 ^ len := by
  rw [toNat_bits, Nat.pow_zero, Nat.div_one]

theorem toNat_opcodeBits_opcodeOf : (opcodeBits (opcodeOf w)).toNat = w.toNat / 2 ^ 22 % 8 := by
  rw [opcodeOf, opcodeBits_opcodeOfBits]
  exact toNat_bits w 22 3

theorem toNat_regA : (regA w).toNat = w.toNat / 2 ^ 19 % 8 := toNat_bits w 19 3

theorem toNat_regB : (regB w).toNat = w.toNat / 2 ^ 16 % 8 := toNat_bits w 16 3

theorem toNat_low16 : (low16 w).toNat = w.toNat % 2 ^ 16 := toNat_lowBits w 16

theorem toNat_dest : (dest w).toNat = w.toNat % 8 := toNat_lowBits w 3

/-- Sixteen bits and the sign of bit 15: "bit 15 set ⇒ value -= 65536" (R55). -/
theorem toInt_sext16 (h : Half) :
    (sext16 h).toInt = if h.toNat < 32768 then (h.toNat : Int) else h.toNat - 65536 := by
  rw [sext16, BitVec.toInt_signExtend_of_le (by decide), BitVec.toInt_eq_toNat_cond]
  split <;> split <;> omega

/-- The opcode of a word is the one with the number its bits 24 to 22 hold (R52). -/
theorem opcodeNumber_eq_iff (op : Opcode) :
    w.toNat / 2 ^ 22 % 8 = (opcodeBits op).toNat ↔ opcodeOf w = op := by
  rw [← toNat_opcodeBits_opcodeOf, BitVec.toNat_inj]
  constructor
  · intro h
    rw [← opcodeOfBits_opcodeBits (opcodeOf w), h, opcodeOfBits_opcodeBits]
  · exact congrArg opcodeBits

end Projections

/-- Settles O4: each projection is an extraction of its bits. -/
theorem fieldProjectionsReadTheirBits : Obligations.FieldProjectionsReadTheirBits := by
  intro w
  refine ⟨toNat_opcodeBits_opcodeOf w, toNat_regA w, toNat_regB w, toNat_low16 w, toNat_dest w, ?_⟩
  rw [toInt_sext16, toNat_low16]

/-- Settles O45: the numbers of the eight opcodes. -/
theorem opcodeNumbersAreTheListed : Obligations.OpcodeNumbersAreTheListed := by
  intro w
  exact ⟨opcodeNumber_eq_iff w .add, opcodeNumber_eq_iff w .nor, opcodeNumber_eq_iff w .lw,
    opcodeNumber_eq_iff w .sw, opcodeNumber_eq_iff w .beq, opcodeNumber_eq_iff w .jalr,
    opcodeNumber_eq_iff w .halt, opcodeNumber_eq_iff w .noop⟩

/-! ### The valid words (R58) -/

section ValidWords

variable (w : Word)

theorem highBits_eq_zero_iff : highBits w = 0#7 ↔ w.toNat / 2 ^ 25 = 0 := by
  have hbits : (highBits w).toNat = w.toNat / 2 ^ 25 % 2 ^ 7 := toNat_bits w 25 7
  have hlt : w.toNat < 2 ^ 32 := w.isLt
  rw [← BitVec.toNat_inj, hbits, BitVec.toNat_zero]
  omega

theorem destPadding_eq_zero_iff : destPadding w = 0#13 ↔ w.toNat / 2 ^ 3 % 2 ^ 13 = 0 := by
  have hbits : (destPadding w).toNat = w.toNat / 2 ^ 3 % 2 ^ 13 := toNat_bits w 3 13
  rw [← BitVec.toNat_inj, hbits, BitVec.toNat_zero]

/-- ADD and NOR have the two least opcode numbers (R52, R53). -/
theorem isRFormat_iff (op : Opcode) : isRFormat op = true ↔ (opcodeBits op).toNat ≤ 1 := by
  cases op <;> decide

/-- The two conditions of R58, as propositions. -/
theorem valid_iff :
    valid w = true ↔ highBits w = 0#7 ∧ (isRFormat (opcodeOf w) = true → destPadding w = 0#13) := by
  cases h : isRFormat (opcodeOf w) <;> simp [valid, h]

/-- The decoder answers the fields of a valid word and nothing else. -/
theorem decode_ok_iff (i : Instr) : decode w = .ok i ↔ valid w = true ∧ fieldsOf w = i := by
  rw [valid_iff]
  rcases decode_cases w with ⟨hhigh, e⟩ | ⟨_, hr, hpad, e⟩ | ⟨hhigh, hpad, e⟩
  · simp [e, hhigh]
  · simp [e, hr, hpad]
  · simpa [e, hhigh] using fun _ => hpad

end ValidWords

/-- Settles O3: the decoder accepts the words with `valid`, whose two conditions are arithmetic on the fields. -/
theorem decodeAcceptsExactlyTheValidWords : Obligations.DecodeAcceptsExactlyTheValidWords := by
  intro w
  calc (∃ i, decode w = .ok i)
    _ ↔ valid w = true := by simp [decode_ok_iff]
    _ ↔ highBits w = 0#7 ∧ (isRFormat (opcodeOf w) = true → destPadding w = 0#13) := valid_iff w
    _ ↔ _ := by
      rw [highBits_eq_zero_iff, isRFormat_iff, toNat_opcodeBits_opcodeOf, destPadding_eq_zero_iff]

/-- Settles O6: the decoder run on the ten words. -/
theorem writtenOutWordsDecode : Obligations.WrittenOutWordsDecode := by
  refine ⟨?_, ?_, ?_, ?_, ?_, ?_, ?_, ?_, ?_, ?_⟩ <;> decide

/-! ### The encoder's closed formula (R57) -/

/-- Two fields side by side: the upper one counts in units of the lower one's size (R51). -/
theorem toNat_sideBySide {v n : Nat} (x : BitVec v) (y : BitVec n) :
    (x ++ y).toNat = x.toNat * 2 ^ n + y.toNat := by
  rw [BitVec.toNat_append, ← Nat.shiftLeft_add_eq_or_of_lt y.isLt, Nat.shiftLeft_eq]

theorem toNat_encodeFields (op : Opcode) (a b : Reg) (low : Half) :
    (encodeFields op a b low).toNat =
      (opcodeBits op).toNat * 2 ^ 22 + a.toNat * 2 ^ 19 + b.toNat * 2 ^ 16 + low.toNat := by
  simp only [encodeFields, toNat_sideBySide, BitVec.toNat_zero]
  omega

theorem toNat_encodeUnused (op : Opcode) (unused : BitVec 22) :
    (encodeUnused op unused).toNat = (opcodeBits op).toNat * 2 ^ 22 + unused.toNat := by
  simp only [encodeUnused, toNat_sideBySide, BitVec.toNat_zero]
  omega

theorem toNat_destBits (d : Reg) : (destBits d).toNat = d.toNat := by
  rw [destBits, toNat_sideBySide, BitVec.toNat_zero, Nat.zero_mul, Nat.zero_add]

theorem toNat_offsetBits (offset : Int) : ((offsetBits offset).toNat : Int) = offset % 2 ^ 16 := by
  rw [offsetBits, BitVec.toNat_ofInt]
  omega

/-- R57 for a word of format I, with `field mod 2^16` as an integer. -/
theorem toNat_encodeFields_offset (op : Opcode) (a b : Reg) (offset : Int) :
    ((encodeFields op a b (offsetBits offset)).toNat : Int) =
      (opcodeBits op).toNat * 2 ^ 22 + a.toNat * 2 ^ 19 + b.toNat * 2 ^ 16 + offset % 2 ^ 16 := by
  rw [toNat_encodeFields, ← toNat_offsetBits]
  omega

/-- R57 for a word of format R. -/
theorem toNat_encodeFields_dest (op : Opcode) (a b d : Reg) :
    (encodeFields op a b (destBits d)).toNat =
      (opcodeBits op).toNat * 2 ^ 22 + a.toNat * 2 ^ 19 + b.toNat * 2 ^ 16 + d.toNat := by
  rw [toNat_encodeFields, toNat_destBits]

/-- Settles O5: one formula for each of the formats R, I, J and O. -/
theorem encodeIsTheSumOfItsFields : Obligations.EncodeIsTheSumOfItsFields := by
  refine ⟨fun a b d => ?_, fun a b offset => ?_, fun a b unused => ?_, fun unused => ?_⟩
  · exact ⟨toNat_encodeFields_dest .add a b d, toNat_encodeFields_dest .nor a b d⟩
  · exact ⟨toNat_encodeFields_offset .lw a b offset, toNat_encodeFields_offset .sw a b offset,
      toNat_encodeFields_offset .beq a b offset⟩
  · exact toNat_encodeFields .jalr a b unused
  · exact ⟨toNat_encodeUnused .halt unused, toNat_encodeUnused .noop unused⟩

/-! ### Decode and encode undo each other (R57) -/

section RoundTrips

theorem offsetFits_iff (offset : Int) : offsetFits offset = true ↔ -32768 ≤ offset ∧ offset ≤ 32767 := by
  simp [offsetFits]

/-- An offset in the range of R53 is read back from its sixteen bits. -/
theorem toInt_offsetBits {offset : Int} (h : offsetFits offset = true) : (offsetBits offset).toInt = offset := by
  obtain ⟨hlow, hhigh⟩ := (offsetFits_iff offset).mp h
  exact BitVec.toInt_ofInt_eq_self (by decide) (by omega) (by omega)

theorem offsetBits_toInt (h : Half) : offsetBits h.toInt = h := BitVec.ofInt_toInt

theorem offsetFits_toInt (h : Half) : offsetFits h.toInt = true := by
  have hlow : -2 ^ 15 ≤ h.toInt := h.le_toInt
  have hhigh : h.toInt < 2 ^ 15 := h.toInt_lt
  rw [offsetFits_iff]
  omega

/-- The fields of an instruction's word are its operands; the offset is the one that needs its range (R53). -/
theorem fieldsOf_encode {i : Instr} (h : i.wf = true) : fieldsOf (encode i) = i := by
  cases i with
  | add | nor | jalr | halt | noop => simp [encode, fieldsOf]
  | lw a b offset | sw a b offset | beq a b offset =>
    have hfit : (offsetBits offset).toInt = offset := toInt_offsetBits h
    simp [encode, fieldsOf, hfit]

/-- Every offset the decoder reads is in range (R53). -/
theorem wf_fieldsOf (w : Word) : (fieldsOf w).wf = true := by
  unfold fieldsOf
  cases opcodeOf w with
  | lw | sw | beq => exact offsetFits_toInt _
  | add | nor | jalr | halt | noop => rfl

variable {w : Word}

/-- The opcode, the two registers and the low half are all of a word below its seven high bits (R51). -/
theorem encodeFields_fields (h : highBits w = 0#7) :
    encodeFields (opcodeOf w) (regA w) (regB w) (low16 w) = w := by
  have hhigh := (highBits_eq_zero_iff w).mp h
  apply BitVec.eq_of_toNat_eq
  rw [toNat_encodeFields, toNat_opcodeBits_opcodeOf, toNat_regA, toNat_regB, toNat_low16]
  omega

/-- The opcode and the 22 unused bits of format O are all of a word below its seven high bits (R53). -/
theorem encodeUnused_fields (h : highBits w = 0#7) : encodeUnused (opcodeOf w) (w.extractLsb' 0 22) = w := by
  have hhigh := (highBits_eq_zero_iff w).mp h
  apply BitVec.eq_of_toNat_eq
  rw [toNat_encodeUnused, toNat_opcodeBits_opcodeOf, toNat_lowBits]
  omega

/-- With no padding bit set, the low half of format R is its destination (R53). -/
theorem destBits_dest (h : destPadding w = 0#13) : destBits (dest w) = low16 w := by
  have hpad := (destPadding_eq_zero_iff w).mp h
  apply BitVec.eq_of_toNat_eq
  rw [toNat_destBits, toNat_dest, toNat_low16]
  omega

/-- The fields of a valid word say all its bits: what the decoder does not read is zero by R58. -/
theorem encode_fieldsOf (h : valid w = true) : encode (fieldsOf w) = w := by
  obtain ⟨hhigh, hpad⟩ := (valid_iff w).mp h
  have hfields := encodeFields_fields hhigh
  have hunused := encodeUnused_fields hhigh
  unfold fieldsOf
  cases hop : opcodeOf w <;> rw [hop] at hfields hunused hpad
  case add | nor =>
    simp only [encode, destBits_dest (hpad rfl)]
    exact hfields
  case lw | sw | beq =>
    simp only [encode, offsetBits_toInt]
    exact hfields
  case jalr => exact hfields
  case halt | noop => exact hunused

end RoundTrips

/-- Settles O1: the word of an instruction is valid, and its fields are the operands. -/
theorem decodeOfEncodeGivesTheInstruction : Obligations.DecodeOfEncodeGivesTheInstruction := by
  intro i h
  exact (decode_ok_iff (encode i) i).mpr ⟨valid_encode i, fieldsOf_encode h⟩

/-- Settles O2: a decoded instruction is the fields of a valid word, which give the word back. -/
theorem encodeOfDecodeGivesTheWord : Obligations.EncodeOfDecodeGivesTheWord := by
  intro w i h
  obtain ⟨hvalid, rfl⟩ := (decode_ok_iff w i).mp h
  exact ⟨wf_fieldsOf w, encode_fieldsOf hvalid⟩

end Sys2Proof

/-! ## ADD and NOR, and the lone instruction: one MEM stage for each instruction, and the words that pass (40_arith.md) -/

namespace Sys2Proof.Machine

/-! ### The MEM stage of an instruction, as a function of it -/

/-- What the cycle of `i` writes in step 5 (47_pipeline_driver.md R155); `exec_next_iff` ties it to `exec`. A JALR is refused
before. -/
def memStageOf (i : Instr) (s n : State) : State :=
  match i with
  | .add _ _ _ | .nor _ _ _ => intoMemwb (encode i) s.exmem.aluResult n
  | .lw _ b _ => loadWord (encode i) b (s.dmem.read s.exmem.aluResult.toNat) n
  | .sw _ _ _ => storeWord (encode i) s.exmem.aluResult.toNat s.exmem.readRegB n
  | .beq _ _ _ => resolveBranch (encode i) s.exmem.aluResult s.exmem.branchTarget n
  | .jalr _ _ _ | .halt _ | .noop _ => intoMemwb (encode i) 0 n

/-- Neither the refusal of R91 nor the address fault of 20_memory.md R35 stops `i` at the commit point. -/
structure Executable (i : Instr) (s : State) : Prop where
  not_jalr : i.opcode ≠ .jalr
  address : i.opcode = .lw ∨ i.opcode = .sw → addressInRange s.exmem.aluResult = true

section MemStageOf

variable {s t n : State} {i : Instr}

theorem exec_eq_commitCycle (h : Executable i s) : exec i s = commitCycle s (memStageOf i s) := by
  cases i with
  | add | nor | beq | halt | noop => rfl
  | lw a b offset => exact if_pos (h.address (.inl rfl))
  | sw a b offset => exact if_pos (h.address (.inr rfl))
  | jalr a b unused => exact absurd rfl h.not_jalr

theorem executable_of_exec_next (h : exec i s = .next t) : Executable i s := by
  obtain ⟨_, _, _, hf⟩ := exec_next s t i h
  rcases hf with ⟨hi, _⟩ | ⟨_, _, _, rfl, hin, _⟩ | ⟨hi, hin, _⟩ | ⟨hi, _⟩ | ⟨hi, _⟩
  · constructor <;> rcases hi with hi | hi <;> simp [hi]
  · exact ⟨by simp [Instr.opcode], fun _ => hin⟩
  · exact ⟨by simp [hi], fun _ => hin⟩
  · constructor <;> simp [hi]
  · constructor <;> rcases hi with hi | hi <;> simp [hi]

/-- When the cycle of an instruction is committed, and the one state it then answers (47_pipeline_driver.md R157). -/
theorem exec_next_iff :
    exec i s = .next t ↔ Executable i s ∧ s.CycleClear ∧
      t = (writebackStage s (memStageOf i s (frontStages s))).setCycles (s.cycles + 1) := by
  constructor
  · intro h
    have hx := executable_of_exec_next h
    exact ⟨hx, commitCycle_next _ _ _ (exec_eq_commitCycle hx ▸ h)⟩
  · rintro ⟨hx, hc, rfl⟩
    rw [exec_eq_commitCycle hx, commitCycle_of_clear s _ hc]

/-- A committed cycle is that of the instruction whose word is in MEM. -/
theorem cycles_exec (h : s.Cycles t) :
    ∃ i, s.exmem.instr = encode i ∧ Executable i s ∧
      t = (writebackStage s (memStageOf i s (frontStages s))).setCycles (s.cycles + 1) := by
  obtain ⟨_, i, hd, he⟩ := (cycles_iff s t).mp h
  obtain ⟨hx, _, ht⟩ := exec_next_iff.mp he
  obtain ⟨_, hw⟩ := encodeOfDecodeGivesTheWord _ _ hd
  exact ⟨i, hw.symm, hx, ht⟩

end MemStageOf

/-! ### What a MEM stage that takes no branch passes on -/

/-- The fields the three younger instructions live in, but for the operand values, which the forwards may write: a MEM stage
that leads from `n` to `m` keeps them (46_branch_squash.md R144, 45_forwarding.md R127). -/
structure PassesOn (n m : State) : Prop where
  pc : m.pc = n.pc
  ifid : m.ifid = n.ifid
  idex_instr : m.idex.instr = n.idex.instr
  idex_pcPlus1 : m.idex.pcPlus1 = n.idex.pcPlus1
  idex_offset : m.idex.offset = n.idex.offset
  idex_badA : m.idex.badA = n.idex.badA
  idex_badB : m.idex.badB = n.idex.badB
  exmem_instr : m.exmem.instr = n.exmem.instr
  exmem_branchTarget : m.exmem.branchTarget = n.exmem.branchTarget
  exmem_aluResult : m.exmem.aluResult = n.exmem.aluResult
  exmem_bad : m.exmem.bad = n.exmem.bad

section Passing

variable (n : State) (w v : Word)

theorem intoMemwb_passesOn : PassesOn n (intoMemwb w v n) := by
  constructor <;> rfl

theorem loadWord_passesOn (r : Reg) : PassesOn n (loadWord w r v n) := by
  constructor <;> simp [loadWord]

theorem storeWord_passesOn (a : Nat) : PassesOn n (storeWord w a v n) := by
  constructor <;> rfl

theorem resolveBranch_of_not_taken (target : Word) (h : resultIsZero v = false) :
    resolveBranch w v target n = intoMemwb w 0 n := by
  simp [resolveBranch, h]

variable {n} {s t : State} {i : Instr}

theorem memStageOf_passesOn (h : i.opcode = .beq → resultIsZero s.exmem.aluResult = false) :
    PassesOn n (memStageOf i s n) := by
  cases i with
  | add | nor | jalr | halt | noop => exact intoMemwb_passesOn ..
  | lw => exact loadWord_passesOn ..
  | sw => exact storeWord_passesOn ..
  | beq a b offset =>
    rw [memStageOf, resolveBranch_of_not_taken _ _ _ _ (h rfl)]
    exact intoMemwb_passesOn ..

/-- WB keeps what the MEM stage passed on, and steps 2 to 4 wrote it (47_pipeline_driver.md R152 to R154). -/
theorem PassesOn.flowsOn {m : State} (h : PassesOn (frontStages s) m) :
    s.FlowsOn ((writebackStage s m).setCycles (s.cycles + 1)) where
  pc := by simp [h.pc, State.nextPc]
  ifid_instr := by simp [h.ifid, apply_ite IFID.instr, fetchLatch]
  ifid_pcPlus1 := by simp [h.ifid, apply_ite IFID.pcPlus1, fetchLatch, State.nextPc]
  idex_instr := by simp [h.idex_instr]
  idex_pcPlus1 := by simp [h.idex_pcPlus1]
  idex_offset := by simp [h.idex_offset]
  idex_badA := by simp [h.idex_badA]
  idex_badB := by simp [h.idex_badB]
  exmem_instr := by simp [h.exmem_instr, executeLatch]
  exmem_branchTarget := by simp [h.exmem_branchTarget, executeLatch, branchTargetOf]
  exmem_aluResult := by simp [h.exmem_aluResult, executeLatch]
  exmem_bad := by simp [h.exmem_bad, executeLatch]

/-- Every committed cycle without a taken branch moves the three younger instructions on (46_branch_squash.md R144). -/
theorem cycles_flowsOn (h : s.Cycles t) (hb : s.takesBranch = false) : s.FlowsOn t := by
  obtain ⟨i, hw, _, rfl⟩ := cycles_exec h
  refine (memStageOf_passesOn fun hi => ?_).flowsOn
  rwa [takesBranch_of_beq (by simp [hw, hi])] at hb

end Passing

/-- Settles O16: the MEM stage writes `MEMWB` and nothing else, so the frame and the younger words are those of any cycle. -/
theorem arithmeticCommitsItsAluResult : Obligations.ArithmeticCommitsItsAluResult := by
  intro a b d s hc i hi
  have hx : Executable i s := by rcases hi with rfl | rfl <;> constructor <;> simp [Instr.opcode]
  have hm : memStageOf i s = intoMemwb (encode i) s.exmem.aluResult := by rcases hi with rfl | rfl <;> rfl
  refine ⟨_, exec_next_iff.mpr ⟨hx, hc, rfl⟩, ?_⟩
  rw [hm]
  exact ⟨by simp, by simp, (intoMemwb_keepsFrame ..).commonFrame, (intoMemwb_passesOn ..).flowsOn,
    by simp [executeLatch]⟩

/-! ### From the commit point through WB -/

section Completion

variable {s t u : State}

/-- The registers after a cycle are those WB leaves (47_pipeline_driver.md R156). -/
theorem cycles_reg (h : s.Cycles t) : t.reg = (retireWord s s).reg := by
  apply RegFile.ext_read
  intro r
  rw [retireWord_reg s s rfl, (everyCycleHasTheCommonFrame s t h).reg]

theorem cycles_reg_of_aluWord (h : s.Cycles t) (hop : isRFormat (opcodeOf s.memwb.instr) = true) :
    t.reg = s.reg.write (dest s.memwb.instr) s.memwb.writeData := by
  rw [cycles_reg h]
  rcases retireWord_cases s s with ⟨_, e⟩ | ⟨hl, _⟩ | ⟨hr, _, _⟩
  · rw [e, State.setReg_reg]
  · simp [hl, isRFormat] at hop
  · simp [hr] at hop

theorem cycles_reg_of_load (h : s.Cycles t) (hop : opcodeOf s.memwb.instr = .lw) :
    t.reg = s.reg.write (regB s.memwb.instr) s.memwb.writeData := by
  rw [cycles_reg h]
  rcases retireWord_cases s s with ⟨hr, _⟩ | ⟨_, e⟩ | ⟨_, hl, _⟩
  · simp [hop, isRFormat] at hr
  · rw [e, forwardFromWriteback, forwardToIdex_reg, State.setReg_reg]
  · exact absurd hop hl

theorem cycles_reg_of_no_write (h : s.Cycles t) (hr : isRFormat (opcodeOf s.memwb.instr) = false)
    (hl : opcodeOf s.memwb.instr ≠ .lw) : t.reg = s.reg := by
  rw [cycles_reg h]
  rcases retireWord_cases s s with ⟨hr', _⟩ | ⟨hl', _⟩ | ⟨_, _, e⟩
  · simp [hr] at hr'
  · exact absurd hl' hl
  · rw [e]

/-- The word in MEM moves on to `MEMWB` (47_pipeline_driver.md R155). -/
theorem cycles_memwb_word (h : s.Cycles t) : t.memwb.instr = s.exmem.instr := by
  obtain ⟨_, i, hd, he⟩ := (cycles_iff s t).mp h
  obtain ⟨_, hw⟩ := encodeOfDecodeGivesTheWord _ _ hd
  rw [(exec_next_memwb_instr he).2, hw]

theorem cycles_dmem_of_no_store (h : s.Cycles t) (hop : opcodeOf s.exmem.instr ≠ .sw) : t.dmem = s.dmem := by
  rcases cycles_dmem h with ⟨hsw, _⟩ | ⟨_, e⟩
  · exact absurd hsw hop
  · exact e

/-- `MEMWB` takes the ALU result of an ADD or NOR in MEM (40_arith.md R70, R71). -/
theorem cycles_memwb_aluResult (h : s.Cycles t) (hop : isRFormat (opcodeOf s.exmem.instr) = true) :
    t.memwb.writeData = s.exmem.aluResult := by
  obtain ⟨i, hw, _, rfl⟩ := cycles_exec h
  rw [hw, opcodeOf_encode] at hop
  cases i with
  | add | nor => simp [memStageOf]
  | lw | sw | beq | jalr | halt | noop => cases hop

/-- `MEMWB` takes the word a LW in MEM reads, and its address passed the check (41_loadstore.md R80, R82). -/
theorem cycles_memwb_loaded (h : s.Cycles t) (hop : opcodeOf s.exmem.instr = .lw) :
    t.memwb.writeData = s.dmem.read s.exmem.aluResult.toNat := by
  obtain ⟨i, hw, _, rfl⟩ := cycles_exec h
  rw [hw, opcodeOf_encode] at hop
  cases i with
  | lw => simp [memStageOf]
  | add | nor | sw | beq | jalr | halt | noop => cases hop

theorem cycles_address_inRange (h : s.Cycles t) (hop : opcodeOf s.exmem.instr = .lw ∨ opcodeOf s.exmem.instr = .sw) :
    addressInRange s.exmem.aluResult = true := by
  obtain ⟨i, hw, hx, _⟩ := cycles_exec h
  rw [hw, opcodeOf_encode] at hop
  exact hx.address hop

/-- An ADD or NOR in MEM has written its ALU result to its destination two cycles later (40_arith.md R70, R71). -/
theorem aluWord_completes (h : s.Cycles t) (h' : t.Cycles u) (hop : isRFormat (opcodeOf s.exmem.instr) = true) :
    u.reg = t.reg.write (dest s.exmem.instr) s.exmem.aluResult := by
  have hw := cycles_memwb_word h
  rw [cycles_reg_of_aluWord h' (by rwa [hw]), hw, cycles_memwb_aluResult h hop]

/-- A LW in MEM has written the word it reads to its second register two cycles later (41_loadstore.md R80). -/
theorem load_completes (h : s.Cycles t) (h' : t.Cycles u) (hop : opcodeOf s.exmem.instr = .lw) :
    u.reg = t.reg.write (regB s.exmem.instr) (s.dmem.read s.exmem.aluResult.toNat) := by
  have hw := cycles_memwb_word h
  rw [cycles_reg_of_load h' (by rwa [hw]), hw, cycles_memwb_loaded h hop]

/-- Any other instruction in MEM writes no register when it is in WB (47_pipeline_driver.md R156). -/
theorem no_write_completes (h : s.Cycles t) (h' : t.Cycles u) (hr : isRFormat (opcodeOf s.exmem.instr) = false)
    (hl : opcodeOf s.exmem.instr ≠ .lw) : u.reg = t.reg := by
  have hw := cycles_memwb_word h
  exact cycles_reg_of_no_write h' (by rwa [hw]) (by rwa [hw])

end Completion

/-! ### ADD and NOR from EX to the register -/

/-- The sum of two words is the wrapped sum of their signed values (40_arith.md R70, R72). -/
theorem addResult_eq_wrap32 (x y : Word) : addResult x y = wrap32 (x.toInt + y.toInt) := by
  rw [addResult, wrap32, BitVec.ofInt_add, BitVec.ofInt_toInt, BitVec.ofInt_toInt]

/-- The complement of a word is its negation less one (40_arith.md R71). -/
theorem toInt_norResult (x y : Word) : (norResult x y).toInt = -((x ||| y).toInt) - 1 := by
  rw [norResult]
  generalize x ||| y = z
  have hz := z.isLt
  rw [BitVec.toInt_eq_toNat_cond, BitVec.toInt_eq_toNat_cond, BitVec.toNat_not]
  split <;> split <;> omega

/-- An ADD or NOR word in EX, behind no taken branch: three cycles later its destination, and no other register, holds the
result of EX, and its MEM cycle leaves the data memory as it is. -/
theorem aluWord_in_ex_completes {s t u v : State} (hb : s.takesBranch = false) (h1 : s.Cycles t) (h2 : t.Cycles u)
    (h3 : u.Cycles v) (hop : isRFormat (opcodeOf s.idex.instr) = true) :
    v.reg = u.reg.write (dest s.idex.instr) (aluResult (opcodeOf s.idex.instr) s.idex) ∧ u.dmem = t.dmem := by
  have flow := cycles_flowsOn h1 hb
  rw [← flow.exmem_aluResult]
  rw [← flow.exmem_instr] at hop ⊢
  have hsw : opcodeOf t.exmem.instr ≠ .sw := fun e => by simp [e, isRFormat] at hop
  exact ⟨aluWord_completes h2 h3 hop, cycles_dmem_of_no_store h2 hsw⟩

/-- Settles O25: EX computes the result, MEM passes it on and WB writes it. -/
theorem arithmeticResultReachesItsRegister : Obligations.ArithmeticResultReachesItsRegister := by
  intro a b d s t u v hb h1 h2 h3
  have completes := aluWord_in_ex_completes hb h1 h2 h3
  refine ⟨fun hw => ?_, fun hw => ?_, fun hw => ?_⟩
  · obtain ⟨hreg, _⟩ := completes (by simp [hw, Instr.opcode, isRFormat])
    simp [hreg, hw, encode, aluResult, addResult_eq_wrap32]
  · obtain ⟨hreg, _⟩ := completes (by simp [hw, Instr.opcode, isRFormat])
    simp [hreg, hw, encode, aluResult, toInt_norResult]
  · obtain ⟨hreg, hmem⟩ := completes (by rcases hw with hw | hw <;> simp [hw, Instr.opcode, isRFormat])
    have hdest : dest s.idex.instr = d := by rcases hw with hw | hw <;> simp [hw, encode]
    refine ⟨fun r hr => ?_, hmem⟩
    rw [hreg, hdest, RegFile.read_write_other _ _ _ _ hr]

/-! ### Latches that no forward and no squash reaches -/

section Latches

variable {s t n : State} {i : Instr}

/-- Of the MEM stages only a LW's and a taken branch's write `IDEX` or `EXMEM` (45_forwarding.md R123, 46_branch_squash.md
R143). -/
theorem memStageOf_latches (hl : i.opcode ≠ .lw) (hb : i.opcode = .beq → resultIsZero s.exmem.aluResult = false) :
    (memStageOf i s n).idex = n.idex ∧ (memStageOf i s n).exmem = n.exmem := by
  cases i with
  | add | nor | sw | jalr | halt | noop => exact ⟨rfl, rfl⟩
  | lw => exact absurd rfl hl
  | beq =>
    rw [memStageOf, resolveBranch_of_not_taken _ _ _ _ (hb rfl)]
    exact ⟨rfl, rfl⟩

/-- Of the words in WB only a LW's writes `IDEX` (45_forwarding.md R125). -/
theorem retireWord_idex_of_no_load (hl : opcodeOf s.memwb.instr ≠ .lw) : (retireWord s n).idex = n.idex := by
  rcases retireWord_cases s n with ⟨_, e⟩ | ⟨h, _⟩ | ⟨_, _, e⟩
  · rw [e, State.setReg_idex]
  · exact absurd h hl
  · rw [e]

/-- Path 1 is an ADD's or NOR's (45_forwarding.md R122); any other word in EX leaves the operands ID read. -/
theorem frontStages_idex_of_no_aluWord (hstall : s.stalls = false) (hr : isRFormat (opcodeOf s.idex.instr) = false) :
    (frontStages s).idex = { decodeLatch s.reg s.ifid with badA := s.badA, badB := s.badB } := by
  rw [frontStages_idex_of_no_stall s hstall, forwardFromExecute, hr]
  rfl

end Latches

/-! ### A lone instruction, fetched into a drained pipeline, on its way to the commit point -/

section Lone

variable {s t : State}

/-- The detector looks for a LW in EX (44_hazard_detector.md R110). -/
theorem stalls_of_noop (hex : s.idex.instr = Config.noopInstr) : s.stalls = false := by
  simp [State.stalls, isLoadUseHazard, hex]

/-- What a cycle with NOOPs in MEM and WB does: no register or data memory write, no branch, no forward into `EXMEM`. -/
structure Quiet (s t : State) : Prop where
  reg : t.reg = s.reg
  dmem : t.dmem = s.dmem
  memwb_instr : t.memwb.instr = Config.noopInstr
  exmem : t.exmem = executeLatch s.idex
  flowsOn : s.FlowsOn t

variable (hmem : s.exmem.instr = Config.noopInstr) (hwb : s.memwb.instr = Config.noopInstr)
include hmem hwb

theorem cycles_noop_latches (h : s.Cycles t) : t.idex = (frontStages s).idex ∧ t.exmem = executeLatch s.idex := by
  obtain ⟨i, hw, _, rfl⟩ := cycles_exec h
  have hop : i.opcode = .noop := by rw [← opcodeOf_encode, ← hw, hmem, opcodeOf_noopInstr]
  obtain ⟨hidex, hexmem⟩ := memStageOf_latches (i := i) (s := s) (n := frontStages s) (by simp [hop]) (by simp [hop])
  exact ⟨by simp [retireWord_idex_of_no_load, hwb, hidex], by simp [hexmem]⟩

theorem cycles_quiet (h : s.Cycles t) : Quiet s t where
  reg := cycles_reg_of_no_write h (by simp [hwb, isRFormat]) (by simp [hwb])
  dmem := cycles_dmem_of_no_store h (by simp [hmem])
  memwb_instr := by rw [cycles_memwb_word h, hmem]
  exmem := (cycles_noop_latches hmem hwb h).2
  flowsOn := cycles_flowsOn h (takesBranch_of_ne_beq (by simp [hmem]))

variable (hex : s.idex.instr = Config.noopInstr)
include hex

/-- No writer is ahead of the word in ID, so no operand is stale (70_reset_and_hazards.md R214). -/
theorem not_bad_of_noops : s.badA = false ∧ s.badB = false := by
  simp [State.badA, State.badB, rawHazard, loadWrites, aluWrites, isRFormat, hex, hmem, hwb]

/-- With NOOPs ahead of it, a word leaves ID with what the registers hold (47_pipeline_driver.md R153). -/
theorem cycles_decodes (h : s.Cycles t) : t.idex = decodeLatch s.reg s.ifid := by
  obtain ⟨hA, hB⟩ := not_bad_of_noops hmem hwb hex
  obtain ⟨hidex, _⟩ := cycles_noop_latches hmem hwb h
  rw [hidex, frontStages_idex_of_no_aluWord (stalls_of_noop hex) (by simp [hex, isRFormat]), hA, hB]
  rfl

end Lone

/-- `i` stands in MEM of `s` as `placeInMem` puts it there, nothing of `s0` but the pipeline has changed, and nothing is
left to write in WB. -/
structure Arrived (i : Instr) (s0 s : State) : Prop where
  exmem : s.exmem = (placeInMem s0 (encode i)).exmem
  reg : s.reg = s0.reg
  dmem : s.dmem = s0.dmem
  memwb_instr : s.memwb.instr = Config.noopInstr

/-- IF, ID and EX of an instruction with NOOPs ahead of it (47_pipeline_driver.md R152 to R154; log entry 3). -/
theorem lone_arrives {i : Instr} {s0 s1 s2 s3 : State} (hdrained : s0.Drained)
    (hfetch : s0.imem.read s0.pc.toNat = encode i) (h1 : s0.Cycles s1) (h2 : s1.Cycles s2) (h3 : s2.Cycles s3) :
    Arrived i s0 s3 := by
  obtain ⟨hid, hex, hmem, hwb⟩ := hdrained
  have q1 := cycles_quiet hmem hwb h1
  have hstall := stalls_of_noop hex
  have fetched : s1.ifid = { instr := encode i, pcPlus1 := s0.nextPc } := by
    have hinstr := q1.flowsOn.ifid_instr
    have hpc := q1.flowsOn.ifid_pcPlus1
    simp only [hstall, Bool.false_eq_true, if_false, hfetch] at hinstr hpc
    rw [State.nextPc, ← hinstr, ← hpc]
  have hex1 : s1.idex.instr = Config.noopInstr := by simp [q1.flowsOn.idex_instr, hid]
  have hmem1 : s1.exmem.instr = Config.noopInstr := by rw [q1.flowsOn.exmem_instr, hex]
  have q2 := cycles_quiet hmem1 q1.memwb_instr h2
  have decoded := cycles_decodes hmem1 q1.memwb_instr hex1 h2
  have hmem2 : s2.exmem.instr = Config.noopInstr := by rw [q2.flowsOn.exmem_instr, hex1]
  have q3 := cycles_quiet hmem2 q2.memwb_instr h3
  exact
    { exmem := by rw [q3.exmem, decoded, fetched, q1.reg]; rfl
      reg := by rw [q3.reg, q2.reg, q1.reg]
      dmem := by rw [q3.dmem, q2.dmem, q1.dmem]
      memwb_instr := q3.memwb_instr }

/-! ### The sequential meaning, at the commit point and after WB -/

/-- The conclusion of O29: `i` in MEM one cycle before `t` and two before `u` has done what its sequential meaning does to
`s0`. -/
def MeetsSequentialMeaning (i : Instr) (s0 t u : State) : Prop :=
  ∃ a, seqExec i s0.arch = .next a ∧ t.dmem = a.dmem ∧ u.reg = a.reg ∧ (takenIn i s0.arch = true → t.pc = a.pc)

section Arrival

variable {i : Instr} {a b d : Reg} {offset : Int} {s0 s t u : State}

theorem Arrived.opcode (h : Arrived i s0 s) : opcodeOf s.exmem.instr = i.opcode := by
  rw [h.exmem]
  exact opcodeOf_encode i

/-- The registers are still those of `s0` when the instruction is in WB. -/
theorem Arrived.next_reg (h : Arrived i s0 s) (h4 : s.Cycles t) : t.reg = s0.reg := by
  rw [cycles_reg_of_no_write h4 (by simp [h.memwb_instr, isRFormat]) (by simp [h.memwb_instr]), h.reg]

theorem Arrived.next_dmem (h : Arrived i s0 s) (hop : i.opcode ≠ .sw) (h4 : s.Cycles t) : t.dmem = s0.dmem := by
  rw [cycles_dmem_of_no_store h4 (by rwa [h.opcode]), h.dmem]

theorem Arrived.add_reg (h : Arrived (.add a b d) s0 s) (h4 : s.Cycles t) (h5 : t.Cycles u) :
    u.reg = s0.reg.write d (addResult (s0.reg.read a) (s0.reg.read b)) := by
  rw [aluWord_completes h4 h5 (by rw [h.opcode]; rfl), h.next_reg h4, h.exmem]
  simp [placeInMem, executeLatch, decodeLatch, encode, aluResult]

theorem Arrived.nor_reg (h : Arrived (.nor a b d) s0 s) (h4 : s.Cycles t) (h5 : t.Cycles u) :
    u.reg = s0.reg.write d (norResult (s0.reg.read a) (s0.reg.read b)) := by
  rw [aluWord_completes h4 h5 (by rw [h.opcode]; rfl), h.next_reg h4, h.exmem]
  simp [placeInMem, executeLatch, decodeLatch, encode, aluResult]

/-- A LW or SW has computed the address of the sequential meaning (41_loadstore.md R82). -/
theorem Arrived.dataAddress (h : Arrived i s0 s) (hi : i = .lw a b offset ∨ i = .sw a b offset) :
    s.exmem.aluResult = s0.arch.dataAddress a offset := by
  rw [h.exmem]
  rcases hi with rfl | rfl <;>
    simp [placeInMem, executeLatch, decodeLatch, encode, aluResult, ArchState.dataAddress, State.arch]

theorem Arrived.lw_reg (h : Arrived (.lw a b offset) s0 s) (h4 : s.Cycles t) (h5 : t.Cycles u) :
    u.reg = s0.reg.write b (s0.dmem.read (s0.arch.dataAddress a offset).toNat) := by
  rw [load_completes h4 h5 h.opcode, h.next_reg h4, h.dmem, h.dataAddress (.inl rfl), h.exmem]
  simp [placeInMem, executeLatch, decodeLatch, encode]

theorem Arrived.sw_dmem (h : Arrived (.sw a b offset) s0 s) (h4 : s.Cycles t) :
    t.dmem = s0.dmem.write (s0.arch.dataAddress a offset).toNat (s0.reg.read b) := by
  rcases cycles_dmem h4 with ⟨_, _, e⟩ | ⟨hne, _⟩
  · rw [e, h.dmem, h.dataAddress (.inr rfl), h.exmem]
    simp [placeInMem, executeLatch, decodeLatch, encode]
  · exact absurd h.opcode hne

/-- A BEQ's difference is zero exactly when its operands are equal (42_control.md R90, 46_branch_squash.md R140, R141). -/
theorem Arrived.takesBranch (h : Arrived (.beq a b offset) s0 s) :
    s.takesBranch = s0.arch.branchTaken a b := by
  rw [takesBranch_of_beq h.opcode, h.exmem, Bool.eq_iff_iff]
  simp only [placeInMem, State.setExmem_exmem, executeLatch, decodeLatch, encode, opcodeOf_encodeFields,
    regA_encodeFields, regB_encodeFields, aluResult, compareResult, resultIsZero, ArchState.branchTaken, State.arch,
    beq_iff_eq]
  exact sub_eq_zero

theorem Arrived.beq_pc (h : Arrived (.beq a b offset) s0 s) (htaken : s0.arch.branchTaken a b = true)
    (h4 : s.Cycles t) : t.pc = branchTargetOf (s0.arch.pc + 1) (sext16 (offsetBits offset)) := by
  rw [pcTakesOneOfThreeValues s t h4, h.takesBranch, if_pos htaken, h.exmem]
  simp [placeInMem, executeLatch, decodeLatch, encode, State.nextPc, State.arch]

end Arrival

/-- The instruction at the commit point does there, and in WB, what its sequential meaning says; a JALR and a HALT do not
get through both cycles. -/
theorem Arrived.meetsSequentialMeaning {i : Instr} {s0 s t u : State} (h : Arrived i s0 s) (h4 : s.Cycles t)
    (h5 : t.Cycles u) : MeetsSequentialMeaning i s0 t u := by
  have keepsReg (hr : isRFormat i.opcode = false) (hl : i.opcode ≠ .lw) : u.reg = s0.reg := by
    rw [no_write_completes h4 h5 (by rwa [h.opcode]) (by rwa [h.opcode]), h.next_reg h4]
  cases i with
  | add a b d => exact ⟨_, rfl, h.next_dmem (by simp [Instr.opcode]) h4, h.add_reg h4 h5, nofun⟩
  | nor a b d => exact ⟨_, rfl, h.next_dmem (by simp [Instr.opcode]) h4, h.nor_reg h4 h5, nofun⟩
  | lw a b offset =>
    have hin := cycles_address_inRange h4 (.inl h.opcode)
    rw [h.dataAddress (.inl rfl)] at hin
    exact ⟨_, if_pos hin, h.next_dmem (by simp [Instr.opcode]) h4, h.lw_reg h4 h5, nofun⟩
  | sw a b offset =>
    have hin := cycles_address_inRange h4 (.inr h.opcode)
    rw [h.dataAddress (.inr rfl)] at hin
    exact ⟨_, if_pos hin, h.sw_dmem h4, keepsReg rfl (by simp [Instr.opcode]), nofun⟩
  | beq a b offset =>
    have hmem := h.next_dmem (by simp [Instr.opcode]) h4
    have hreg := keepsReg rfl (by simp [Instr.opcode])
    cases htaken : s0.arch.branchTaken a b with
    | true => exact ⟨_, if_pos htaken, hmem, hreg, fun _ => h.beq_pc htaken h4⟩
    | false => exact ⟨_, if_neg (by simp [htaken]), hmem, hreg, by simp [takenIn, htaken]⟩
  | jalr a b unused =>
    obtain ⟨_, hjalr⟩ := cycles_memwb_instr h4
    exact absurd (cycles_memwb_word h4 ▸ h.opcode) hjalr
  | halt unused => exact absurd (cycles_memwb_word h4 ▸ h.opcode) (cycles_memwb_not_halt h5)
  | noop unused =>
    exact ⟨_, rfl, h.next_dmem (by simp [Instr.opcode]) h4, keepsReg rfl (by simp [Instr.opcode]), nofun⟩

/-- Settles O29: three cycles bring the instruction to the commit point with the operands of `s0`, two more complete it. -/
theorem loneInstructionMeetsItsSequentialMeaning : Obligations.LoneInstructionMeetsItsSequentialMeaning := by
  intro i s0 s1 s2 s3 s4 s5 _ hdrained hfetch h1 h2 h3 h4 h5
  exact (lone_arrives hdrained hfetch h1 h2 h3).meetsSequentialMeaning h4 h5

end Sys2Proof.Machine

/-! ## LW and SW: the store-data override, the commit point and the way from EX to the last effect (41_loadstore.md) -/

namespace Sys2Proof.Machine

/-! ### The store data on its way from EX to MEM -/

/-- The store-data override reaches a SW in EX that stores the loaded register, and no other word (45_forwarding.md R124). -/
theorem loadWord_exmem_readRegB (n : State) (w v : Word) (r : Reg) :
    (loadWord w r v n).exmem.readRegB =
      if opcodeOf n.exmem.instr = .sw ∧ regB n.exmem.instr = r then v else n.exmem.readRegB := by
  rcases forwardStoreData_cases (intoMemwb w v n) r v with ⟨hsw, hr, e⟩ | ⟨hne, e⟩
  · rw [if_pos ⟨hsw, hr⟩, loadWord, forwardFromMemory_exmem, e, State.setExmem_exmem]
  · rw [if_neg (by simpa using hne), loadWord, forwardFromMemory_exmem, e, intoMemwb_eq, State.setMemwb_exmem]

theorem overridesStoreData_of_ne_lw {s : State} (h : opcodeOf s.exmem.instr ≠ .lw) : s.overridesStoreData = false := by
  simp [State.overridesStoreData, h]

/-- For a SW in EX the override asks whether the word in MEM loads its data register (45_forwarding.md R124). -/
theorem overridesStoreData_of_sw {s : State} (h : opcodeOf s.idex.instr = .sw) :
    s.overridesStoreData = loadWrites s.exmem.instr (regB s.idex.instr) := by
  simp [State.overridesStoreData, loadWrites, h, BEq.comm]

/-- What a committed cycle without a taken branch leaves as the store data of the word leaving EX: the operand, unless a LW in
MEM overrides it (45_forwarding.md R124, 47_pipeline_driver.md R154). -/
theorem cycles_exmem_readRegB {s t : State} (h : s.Cycles t) (hb : s.takesBranch = false) :
    t.exmem.readRegB =
      if s.overridesStoreData then s.dmem.read s.exmem.aluResult.toNat else s.idex.readRegB := by
  obtain ⟨i, hw, _, rfl⟩ := cycles_exec h
  have hop : opcodeOf s.exmem.instr = i.opcode := by rw [hw, opcodeOf_encode]
  rw [State.setCycles_exmem, writebackStage_exmem]
  by_cases hl : i.opcode = .lw
  · cases i with
    | lw a b offset =>
      rw [memStageOf, loadWord_exmem_readRegB]
      simp [State.overridesStoreData, hw, encode, executeLatch]
    | add | nor | sw | beq | jalr | halt | noop => cases hl
  · have notTaken (hi : i.opcode = .beq) : resultIsZero s.exmem.aluResult = false := by
      rwa [takesBranch_of_beq (hop.trans hi)] at hb
    obtain ⟨_, hexmem⟩ := memStageOf_latches (n := frontStages s) hl notTaken
    rw [hexmem, overridesStoreData_of_ne_lw (by rwa [hop])]
    simp [executeLatch]

/-! ### LW and SW at the commit point -/

/-- Settles O17: the MEM stage writes `MEMWB` and, through path 2, operands of the younger words. -/
theorem loadCommitsTheWordItReads : Obligations.LoadCommitsTheWordItReads := by
  intro a b offset s hc hin
  have hx : Executable (.lw a b offset) s := ⟨by simp [Instr.opcode], fun _ => hin⟩
  refine ⟨_, exec_next_iff.mpr ⟨hx, hc, rfl⟩, ?_⟩
  rw [memStageOf]
  exact ⟨by simp, by simp, (loadWord_keepsFrame ..).commonFrame, (loadWord_passesOn ..).flowsOn,
    by simp [loadWord_exmem_readRegB, executeLatch]⟩

/-- Settles O18: the MEM stage writes `MEMWB` and one word, and a canonical memory reads back what was written. -/
theorem storeCommitsOneWord : Obligations.StoreCommitsOneWord := by
  intro a b offset s hc hin hwf
  have hx : Executable (.sw a b offset) s := ⟨by simp [Instr.opcode], fun _ => hin⟩
  refine ⟨_, exec_next_iff.mpr ⟨hx, hc, rfl⟩, ?_⟩
  rw [memStageOf]
  exact ⟨by simp, by simp [Memory.read_write_same _ _ _ hwf],
    fun x hne => by simp [Memory.read_write_other _ _ _ _ hwf hne],
    (storeWord_keepsFrame ..).commonFrame, (storeWord_passesOn ..).flowsOn, by simp [storeWord, executeLatch]⟩

/-! ### LW and SW from EX to their last effect -/

/-- The effective address is the wrapped sum of the signed values of base and offset (41_loadstore.md R82). -/
theorem effectiveAddress_eq_wrap32 (base offset : Word) :
    effectiveAddress base offset = wrap32 (base.toInt + offset.toInt) :=
  addResult_eq_wrap32 base offset

/-- A LW or SW in EX reaches MEM with its effective address (41_loadstore.md R82). -/
theorem cycles_dataAddress {s t : State} (h : s.Cycles t) (hb : s.takesBranch = false)
    (hop : opcodeOf s.idex.instr = .lw ∨ opcodeOf s.idex.instr = .sw) :
    t.exmem.aluResult = wrap32 (s.idex.readRegA.toInt + s.idex.offset.toInt) := by
  rw [(cycles_flowsOn h hb).exmem_aluResult, ← effectiveAddress_eq_wrap32]
  rcases hop with hop | hop <;> rw [hop, aluResult]

/-- Settles O26: EX computes the address, MEM reads the word there and WB writes it. -/
theorem loadedWordReachesItsRegister : Obligations.LoadedWordReachesItsRegister := by
  intro a b offset s t u v hb hw h1 h2 h3
  have hop : opcodeOf s.idex.instr = .lw := by rw [hw, opcodeOf_encode]; rfl
  have hmem : t.exmem.instr = s.idex.instr := (cycles_flowsOn h1 hb).exmem_instr
  have hload : opcodeOf t.exmem.instr = .lw := by rw [hmem, hop]
  have hregB : regB t.exmem.instr = b := by simp [hmem, hw, encode]
  have hreg := load_completes h2 h3 hload
  rw [hregB, cycles_dataAddress h1 hb (.inl hop)] at hreg
  refine ⟨?_, fun r hr => ?_, cycles_dmem_of_no_store h2 (by simp [hload])⟩
  · rw [hreg, RegFile.read_write_same]
  · rw [hreg, RegFile.read_write_other _ _ _ _ hr]

/-- Settles O27: EX computes the address, a LW in MEM may override the data, and the SW's MEM cycle writes the one word. -/
theorem storeReachesTheMemory : Obligations.StoreReachesTheMemory := by
  intro a b offset s t u hs hb hw h1 h2 x
  have hop : opcodeOf s.idex.instr = .sw := by rw [hw, opcodeOf_encode]; rfl
  have hregB : regB s.idex.instr = b := by simp [hw, encode]
  have hstore : opcodeOf t.exmem.instr = .sw := by rw [(cycles_flowsOn h1 hb).exmem_instr, hop]
  have hdata := cycles_exmem_readRegB h1 hb
  rw [overridesStoreData_of_sw hop, hregB] at hdata
  rw [onlyAStoreInMemChangesDataMemory t u h2 (cycles_dmem_wf h1 hs.dmem_wf) x, hdata,
    cycles_dataAddress h1 hb (.inr hop)]
  simp [hstore]

end Sys2Proof.Machine

/-! ## BEQ from EX to the pc, and JALR (42_control.md) -/

namespace Sys2Proof.Machine

/-- BEQ's wrapping difference is zero exactly for equal operands (46_branch_squash.md R140, R141, 40_arith.md R72). -/
theorem resultIsZero_compareResult (x y : Word) : resultIsZero (compareResult x y) = true ↔ x = y := by
  rw [resultIsZero, beq_iff_eq]
  exact sub_eq_zero

/-- The branch target is the wrapped sum of the signed values of `pcPlus1` and offset (46_branch_squash.md R140). -/
theorem branchTargetOf_eq_wrap32 (pcPlus1 offset : Word) :
    branchTargetOf pcPlus1 offset = wrap32 (pcPlus1.toInt + offset.toInt) :=
  addResult_eq_wrap32 pcPlus1 offset

/-- A BEQ in EX, behind no taken branch, is taken in MEM exactly when its operands are equal (42_control.md R90). -/
theorem cycles_takesBranch {s t : State} (h : s.Cycles t) (hb : s.takesBranch = false)
    (hop : opcodeOf s.idex.instr = .beq) : t.takesBranch = true ↔ s.idex.readRegA = s.idex.readRegB := by
  have flow := cycles_flowsOn h hb
  rw [takesBranch_of_beq (by rw [flow.exmem_instr, hop]), flow.exmem_aluResult, hop]
  exact resultIsZero_compareResult s.idex.readRegA s.idex.readRegB

/-- Any word in EX, behind no taken branch, reaches MEM with its branch target (47_pipeline_driver.md R154). -/
theorem cycles_branchTarget {s t : State} (h : s.Cycles t) (hb : s.takesBranch = false) :
    t.exmem.branchTarget = wrap32 (s.idex.pcPlus1.toInt + s.idex.offset.toInt) := by
  rw [(cycles_flowsOn h hb).exmem_branchTarget]
  exact branchTargetOf_eq_wrap32 s.idex.pcPlus1 s.idex.offset

/-- Settles O28: EX stores the difference and the target, and in the next cycle the pc takes the target if the difference is
zero. -/
theorem branchComparesItsOperands : Obligations.BranchComparesItsOperands := by
  intro a b offset s t u hb hw h1 h2
  have hop : opcodeOf s.idex.instr = .beq := by rw [hw, opcodeOf_encode]; rfl
  rw [pcTakesOneOfThreeValues t u h2, cycles_branchTarget h1 hb]
  simp only [cycles_takesBranch h1 hb hop]

/-- Settles O22: the arm of JALR reads neither its operands nor the state (decision D9). -/
theorem jalrIsRefused : Obligations.JalrIsRefused := by
  intro a b unused s
  rw [exec, execJalr]

end Sys2Proof.Machine

/-! ## HALT and NOOP at the commit point, and a HALT from its fetch to the halt check (43_system.md) -/

namespace Sys2Proof.Machine

section System

variable {s : State}

/-- A HALT or NOOP that nothing stops passes the commit point and writes `MEMWB` only (43_system.md R100, R101). -/
theorem system_commits {i : Instr} (hi : i.opcode = .halt ∨ i.opcode = .noop) (hc : s.CycleClear) :
    ∃ t, exec i s = .next t ∧ t.memwb.instr = encode i ∧ t.dmem = s.dmem ∧ s.CommonFrame t ∧ s.FlowsOn t := by
  have hx : Executable i s := by constructor <;> rcases hi with hi | hi <;> simp [hi]
  have hm : memStageOf i s = intoMemwb (encode i) 0 := by
    cases i with
    | halt | noop => rfl
    | add | nor | lw | sw | beq | jalr => rcases hi with hi | hi <;> cases hi
  refine ⟨_, exec_next_iff.mpr ⟨hx, hc, rfl⟩, ?_⟩
  rw [hm]
  exact ⟨by simp, by simp, (intoMemwb_keepsFrame ..).commonFrame, (intoMemwb_passesOn ..).flowsOn⟩

/-- The halt check finds a HALT in `MEMWB` and reports the count (47_pipeline_driver.md R151). -/
theorem cycle_of_halt (h : opcodeOf s.memwb.instr = .halt) : cycle s = .halted s.cycles := by
  simp [cycle, State.halted, h]

/-- A HALT in ID reads no register, so the detector lets it pass (44_hazard_detector.md R110). -/
theorem stalls_of_halt (h : opcodeOf s.ifid.instr = .halt) : s.stalls = false := by
  simp [State.stalls, isLoadUseHazard, h]

end System

/-- Settles O23: the HALT is in `MEMWB` after its cycle, where the halt check of the next finds it with the new count. -/
theorem haltCommitsAndEndsTheRun : Obligations.HaltCommitsAndEndsTheRun := by
  intro unused s hc
  obtain ⟨t, hexec, hw, hdmem, frame, flow⟩ := system_commits (i := .halt unused) (.inl rfl) hc
  have hend : cycle t = .halted t.cycles := cycle_of_halt (by rw [hw, opcodeOf_encode]; rfl)
  exact ⟨t, hexec, hw, frame.cycles ▸ hend, hdmem, frame, flow⟩

/-- Settles O24: the NOOP is in `MEMWB` after its cycle, where the halt check of the next finds no HALT. -/
theorem noopCommitsAndChangesNothing : Obligations.NoopCommitsAndChangesNothing := by
  intro unused s hc
  obtain ⟨t, hexec, hw, hdmem, frame, flow⟩ := system_commits (i := .noop unused) (.inr rfl) hc
  have hrun : t.halted = false := by simp [State.halted, hw, Instr.opcode]
  exact ⟨t, hexec, hw, hrun, hdmem, frame, flow⟩

/-- Settles O30: behind no taken branch the HALT is in `IFID`, `IDEX`, `EXMEM` and `MEMWB` after one, two, three and four
cycles; the one stall that could hold it, in ID, it cannot cause. -/
theorem haltIsReportedFourCyclesAfterItsFetch : Obligations.HaltIsReportedFourCyclesAfterItsFetch := by
  intro unused s0 s1 s2 s3 s4 hfetch hstall hb0 hb1 hb2 h1 h2 h3 h4
  have hop : opcodeOf (encode (.halt unused)) = .halt := opcodeOf_encode _
  have inIfid : s1.ifid.instr = encode (.halt unused) := by
    simp [(cycles_flowsOn h1 hb0).ifid_instr, hstall, hfetch]
  have inIdex : s2.idex.instr = encode (.halt unused) := by
    simp [(cycles_flowsOn h2 hb1).idex_instr, stalls_of_halt (inIfid ▸ hop), inIfid]
  have inExmem : s3.exmem.instr = encode (.halt unused) := by
    rw [(cycles_flowsOn h3 hb2).exmem_instr, inIdex]
  have inMemwb : s4.memwb.instr = encode (.halt unused) := by
    rw [cycles_memwb_word h4, inExmem]
  have count : s4.cycles = s0.cycles + 4 := by
    rw [(everyCycleHasTheCommonFrame _ _ h4).cycles, (everyCycleHasTheCommonFrame _ _ h3).cycles,
      (everyCycleHasTheCommonFrame _ _ h2).cycles, (everyCycleHasTheCommonFrame _ _ h1).cycles]
  rw [cycle_of_halt (inMemwb ▸ hop), count]

end Sys2Proof.Machine

/-! ## The load-use detector and its stall (44_hazard_detector.md) -/

namespace Sys2Proof.Machine

/-! ### The predicate -/

/-- R110 on the fields of the two words: what is compared depends on the younger opcode. -/
theorem isLoadUseHazard_iff (younger older : Word) :
    isLoadUseHazard younger older = true ↔
      opcodeOf older = .lw ∧
        ((opcodeOf younger ∈ [.add, .nor, .beq] ∧ (regA younger = regB older ∨ regB younger = regB older)) ∨
          (opcodeOf younger ∈ [.lw, .sw] ∧ regA younger = regB older)) := by
  cases h : opcodeOf younger <;> simp [isLoadUseHazard, h]

/-- Settles O35: each opcode test and each field comparison is one on the word's number. -/
theorem loadUseHazardIsThePredicate : Obligations.LoadUseHazardIsThePredicate := by
  intro younger older
  refine ⟨?_, fun s hid hex => by rw [State.stalls, hid, hex]⟩
  obtain ⟨-, -, olderLw, -⟩ := opcodeNumbersAreTheListed older
  obtain ⟨add, nor, lw, sw, beq, -⟩ := opcodeNumbersAreTheListed younger
  have readsBoth : younger.toNat / 2 ^ 22 % 8 ∈ [0, 1, 4] ↔ opcodeOf younger ∈ [.add, .nor, .beq] := by
    simp only [List.mem_cons, List.not_mem_nil, or_false, add, nor, beq]
  have readsBase : younger.toNat / 2 ^ 22 % 8 ∈ [2, 3] ↔ opcodeOf younger ∈ [.lw, .sw] := by
    simp only [List.mem_cons, List.not_mem_nil, or_false, lw, sw]
  rw [isLoadUseHazard_iff, olderLw, readsBoth, readsBase, ← toNat_regA, ← toNat_regB younger, ← toNat_regB older,
    BitVec.toNat_inj, BitVec.toNat_inj]

/-- The detector stalls only behind a LW in EX (44_hazard_detector.md R110). -/
theorem idex_lw_of_stall {s : State} (hs : s.stalls = true) : opcodeOf s.idex.instr = .lw :=
  ((isLoadUseHazard_iff _ _).mp hs).1

/-! ### A bubble in `IDEX` stays one -/

section Bubble

variable {s t n : State} {i : Instr}

/-- No forward reaches a bubble, which is a NOOP (45_forwarding.md R130). -/
theorem forwardToIdex_idex_of_bubble (r : Reg) (v : Word) (h : n.idex = bubbleIdex) :
    (forwardToIdex r v n).idex = bubbleIdex := by
  rw [forwardToIdex_of_no_source _ _ _ (by simp [h, bubbleIdex, srcA]) (by simp [h, bubbleIdex, srcB]), h]

theorem memStageOf_idex_of_bubble (h : n.idex = bubbleIdex) : (memStageOf i s n).idex = bubbleIdex := by
  cases i with
  | add | nor | sw | jalr | halt | noop => exact h
  | lw a b offset =>
    rw [memStageOf, loadWord, forwardFromMemory_idex]
    exact forwardToIdex_idex_of_bubble _ _ h
  | beq a b offset =>
    rcases resolveBranch_cases n (encode (.beq a b offset)) s.exmem.aluResult s.exmem.branchTarget with
      ⟨_, e⟩ | ⟨_, e⟩ <;> rw [memStageOf, e]
    · rfl
    · exact h

theorem retireWord_idex_of_bubble (h : n.idex = bubbleIdex) : (retireWord s n).idex = bubbleIdex := by
  rcases retireWord_cases s n with ⟨_, e⟩ | ⟨_, e⟩ | ⟨_, _, e⟩ <;> rw [e]
  · exact h
  · exact forwardToIdex_idex_of_bubble _ _ h
  · exact h

/-- A stalled cycle leaves a bubble in `IDEX`, whether or not it squashes (44_hazard_detector.md R111, 46_branch_squash.md
R145). -/
theorem cycles_idex_of_stall (h : s.Cycles t) (hs : s.stalls = true) : t.idex = bubbleIdex := by
  obtain ⟨i, _, _, rfl⟩ := cycles_exec h
  exact retireWord_idex_of_bubble (memStageOf_idex_of_bubble (frontStages_idex_of_stall s hs))

/-- A taken branch leaves bubbles in the three younger latches (46_branch_squash.md R143). -/
theorem cycles_squashes (h : s.Cycles t) (hb : s.takesBranch = true) :
    t.ifid = bubbleIfid ∧ t.idex = bubbleIdex ∧ t.exmem = bubbleExmem := by
  obtain ⟨i, hw, _, rfl⟩ := cycles_exec h
  simp only [State.takesBranch, Bool.and_eq_true, beq_iff_eq, hw, opcodeOf_encode] at hb
  obtain ⟨hop, hzero⟩ := hb
  cases i with
  | beq a b offset =>
    rw [memStageOf, resolveBranch, if_pos hzero]
    exact ⟨by simp, retireWord_idex_of_bubble rfl, by simp⟩
  | add | nor | lw | sw | jalr | halt | noop => cases hop

end Bubble

/-- Settles O37: the stall's bubble is what the detector finds in EX next, and a NOOP is no LW. -/
theorem stallLastsOneCycle : Obligations.StallLastsOneCycle := by
  intro s t h hs
  exact stalls_of_noop (by rw [cycles_idex_of_stall h hs, bubbleIdex])

/-! ### A stalled cycle does not fetch: it cannot fault on the pc -/

section NoFetch

/-- Everything an instruction at the commit point can do: its cycle, the refusal of R91 or the address fault of R35. -/
theorem exec_cases (i : Instr) (s : State) :
    exec i s = commitCycle s (memStageOf i s) ∨ exec i s = .refused .jalrNotSpecified ∨
      exec i s = .fault (.dataAddressOutOfRange s.exmem.aluResult) := by
  cases i with
  | add | nor | beq | halt | noop => exact .inl rfl
  | lw | sw =>
    by_cases hin : addressInRange s.exmem.aluResult = true
    · exact .inl (if_pos hin)
    · exact .inr (.inr (if_neg hin))
  | jalr a b unused => exact .inr (.inl rfl)

variable {s : State}

theorem commitCycle_ne_fetchFault (f : State → State) (hf : s.fetchAllowed = true) (p : Word) :
    commitCycle s f ≠ .fault (.fetchAddressOutOfRange p) := by
  rcases commitCycle_cases s f with ⟨_, e⟩ | ⟨_, hno, _⟩ | ⟨_, e⟩
  · simp [e]
  · simp [hf] at hno
  · simp [e]

theorem step_ne_fetchFault (hf : s.fetchAllowed = true) (p : Word) :
    step s ≠ .fault (.fetchAddressOutOfRange p) := by
  rcases step_cases s with ⟨_, e⟩ | ⟨_, _, e⟩ | ⟨_, i, _, e⟩
  · simp [e]
  · simp [e]
  · rw [e]
    rcases exec_cases i s with e | e | e
    · rw [e]
      exact commitCycle_ne_fetchFault _ hf p
    · simp [e]
    · simp [e]

/-- Only a fetch faults on the pc (20_memory.md R36). -/
theorem cycle_ne_fetchFault (hf : s.fetchAllowed = true) (p : Word) :
    cycle s ≠ .fault (.fetchAddressOutOfRange p) := by
  have hstep := step_ne_fetchFault hf p
  unfold cycle
  cases s.halted with
  | true => simp
  | false =>
    cases h : step s with
    | fault r => simpa [h] using hstep
    | next | refused => simp

/-- A stalled cycle does not fetch (44_hazard_detector.md R111). -/
theorem fetchAllowed_of_stall (hs : s.stalls = true) : s.fetchAllowed = true := by
  simp [State.fetchAllowed, hs]

end NoFetch

/-! ### A stalled cycle does not fetch: it does not read `imem` -/

/-- The state with another program memory, all else as it is. -/
def State.withImem (s : State) (m : Memory) : State := { s with imem := m }

section OtherImem

variable (m : Memory) (s n : State)

@[simp] theorem State.withImem_stalls : (n.withImem m).stalls = n.stalls := rfl
@[simp] theorem State.withImem_idex : (n.withImem m).idex = n.idex := rfl
@[simp] theorem State.withImem_exmem : (n.withImem m).exmem = n.exmem := rfl
@[simp] theorem State.withImem_memwb : (n.withImem m).memwb = n.memwb := rfl

/-! No forward and no stage after IF reads `imem`, so each goes on from the other program memory alike. -/

theorem forwardFromExecute_withImem :
    forwardFromExecute (s.withImem m) (n.withImem m) = (forwardFromExecute s n).withImem m := by
  unfold forwardFromExecute
  rw [State.withImem_idex]
  split <;> rfl

theorem forwardStoreData_withImem (r : Reg) (v : Word) :
    forwardStoreData r v (n.withImem m) = (forwardStoreData r v n).withImem m := by
  unfold forwardStoreData
  rw [State.withImem_exmem]
  split <;> rfl

theorem loadWord_withImem (w v : Word) (r : Reg) :
    loadWord w r v (n.withImem m) = (loadWord w r v n).withImem m :=
  forwardStoreData_withImem m (forwardToIdex r v (intoMemwb w v n)) r v

theorem resolveBranch_withImem (w v target : Word) :
    resolveBranch w v target (n.withImem m) = (resolveBranch w v target n).withImem m := by
  unfold resolveBranch
  split <;> rfl

theorem decodeStage_withImem : decodeStage (s.withImem m) (n.withImem m) = (decodeStage s n).withImem m := by
  unfold decodeStage
  rw [State.withImem_stalls]
  split <;> rfl

theorem executeStage_withImem : executeStage (s.withImem m) (n.withImem m) = (executeStage s n).withImem m :=
  forwardFromExecute_withImem m s (n.setExmem (executeLatch s.idex))

theorem memStageOf_withImem (i : Instr) :
    memStageOf i (s.withImem m) (n.withImem m) = (memStageOf i s n).withImem m := by
  cases i with
  | add | nor | sw | jalr | halt | noop => rfl
  | lw => exact loadWord_withImem ..
  | beq => exact resolveBranch_withImem ..

theorem writebackStage_withImem :
    writebackStage (s.withImem m) (n.withImem m) = (writebackStage s n).withImem m := by
  unfold writebackStage retireWord
  rw [State.withImem_memwb]
  cases opcodeOf s.memwb.instr <;> rfl

/-- IF is the one stage that reads `imem`, and on a stall it does nothing (44_hazard_detector.md R111). -/
theorem frontStages_withImem (hs : s.stalls = true) : frontStages (s.withImem m) = (frontStages s).withImem m := by
  have held : fetchStage s s = s := if_pos hs
  have held' : fetchStage (s.withImem m) (s.withImem m) = s.withImem m := if_pos hs
  rw [frontStages, frontStages, held, held', decodeStage_withImem, executeStage_withImem]

variable {s} {t : State}

/-- A committed stalled cycle commits alike, with any program memory in place of its own (44_hazard_detector.md R111). -/
theorem cycles_withImem_of_stall (h : s.Cycles t) (hs : s.stalls = true) :
    (s.withImem m).Cycles (t.withImem m) := by
  obtain ⟨hhalt, i, hd, he⟩ := (cycles_iff s t).mp h
  obtain ⟨⟨hjalr, haddr⟩, hc, rfl⟩ := exec_next_iff.mp he
  refine (cycles_iff _ _).mpr ⟨hhalt, i, hd, exec_next_iff.mpr ⟨⟨hjalr, haddr⟩, hc, ?_⟩⟩
  rw [frontStages_withImem m s hs, memStageOf_withImem, writebackStage_withImem]
  rfl

end OtherImem

/-! ### What a stalled cycle holds -/

section Held

variable {s t : State}

/-- Without a squash the pc and the fetch latch are held (44_hazard_detector.md R111). -/
theorem cycles_holds_fetch (h : s.Cycles t) (hs : s.stalls = true) (hb : s.takesBranch = false) :
    t.pc = s.pc ∧ t.ifid = s.ifid := by
  have flow := cycles_flowsOn h hb
  have hpc := flow.pc
  have hinstr := flow.ifid_instr
  have hpcPlus1 := flow.ifid_pcPlus1
  rw [if_pos hs] at hpc hinstr hpcPlus1
  exact ⟨hpc, congrArg₂ IFID.mk hinstr hpcPlus1⟩

/-- The LW in EX goes on to MEM with its address (41_loadstore.md R82). -/
theorem cycles_load_moves_on (h : s.Cycles t) (hs : s.stalls = true) (hb : s.takesBranch = false) :
    t.exmem.instr = s.idex.instr ∧ t.exmem.aluResult = s.idex.readRegA + s.idex.offset := by
  have flow := cycles_flowsOn h hb
  refine ⟨flow.exmem_instr, ?_⟩
  rw [flow.exmem_aluResult, idex_lw_of_stall hs, aluResult, effectiveAddress]

end Held

/-- Settles O36: IF and ID do nothing but insert the bubble, the LW leaves EX, and a taken branch squashes what they left. -/
theorem stallHoldsFetchAndInsertsABubble : Obligations.StallHoldsFetchAndInsertsABubble := by
  intro s hs
  refine ⟨cycle_ne_fetchFault (fetchAllowed_of_stall hs), fun t h => ?_⟩
  refine ⟨everyCycleHasTheCommonFrame s t h, cycles_memwb_word h, fun m => cycles_withImem_of_stall m h hs,
    fun hb => ?_, fun hb => ?_⟩
  · obtain ⟨hpc, hifid⟩ := cycles_holds_fetch h hs hb
    exact ⟨hpc, hifid, cycles_idex_of_stall h hs, cycles_load_moves_on h hs hb⟩
  · have hpc := pcTakesOneOfThreeValues s t h
    rw [if_pos hb] at hpc
    exact ⟨hpc, cycles_squashes h hb⟩

end Sys2Proof.Machine

/-! ## The forwarding network (45_forwarding.md) -/

namespace Sys2Proof.Machine

/-! ### The operands of the word leaving ID, path by path -/

/-- The source fields of the word in `l`, and no others, must have their operands from `f` (45_forwarding.md R120). -/
structure IDEX.OperandsFrom (l : IDEX) (f : Reg → Word) : Prop where
  readRegA : srcA (opcodeOf l.instr) = true → l.readRegA = f (regA l.instr)
  readRegB : srcB (opcodeOf l.instr) = true → l.readRegB = f (regB l.instr)

section Paths

variable {s n : State} {i : Instr} {f : Reg → Word}

/-- ID reads the old register file (47_pipeline_driver.md R153). -/
theorem decodeLatch_operandsFrom (reg : RegFile) (l : IFID) (a b : Bool) :
    IDEX.OperandsFrom { decodeLatch reg l with badA := a, badB := b } reg.read :=
  ⟨fun _ => rfl, fun _ => rfl⟩

/-- A forward gives its value to the operands of its register and leaves the others (45_forwarding.md R130). -/
theorem IDEX.OperandsFrom.after_forward (h : n.idex.OperandsFrom f) (r : Reg) (v : Word) :
    (forwardToIdex r v n).idex.OperandsFrom fun q => if r = q then v else f q where
  readRegA hA := by
    rw [forwardToIdex_idex_instr] at hA ⊢
    simp [forwardToIdex_readRegA, hA, h.readRegA hA, @eq_comm _ r]
  readRegB hB := by
    rw [forwardToIdex_idex_instr] at hB ⊢
    simp [forwardToIdex_readRegB, hB, h.readRegB hB, @eq_comm _ r]

/-- Path 1: an ADD or NOR in EX forwards to the readers of its destination, any other word to none (45_forwarding.md
R122). -/
theorem IDEX.OperandsFrom.after_executePath (h : n.idex.OperandsFrom f) :
    (forwardFromExecute s n).idex.OperandsFrom fun q =>
      if aluWrites s.idex.instr q then n.exmem.aluResult else f q := by
  rcases forwardFromExecute_cases s n with ⟨hr, e⟩ | ⟨hr, e⟩ <;> rw [e]
  · simpa [aluWrites, hr] using h.after_forward (dest s.idex.instr) n.exmem.aluResult
  · simpa [aluWrites, hr] using h

/-- Path 2: a LW in MEM forwards the word it reads, and no other MEM stage but a taken branch's writes operands
(45_forwarding.md R123). -/
theorem IDEX.OperandsFrom.after_memStage (h : n.idex.OperandsFrom f)
    (hb : i.opcode = .beq → resultIsZero s.exmem.aluResult = false) :
    (memStageOf i s n).idex.OperandsFrom fun q =>
      if loadWrites (encode i) q then s.dmem.read s.exmem.aluResult.toNat else f q := by
  by_cases hl : i.opcode = .lw
  · cases i with
    | lw a b offset =>
      have loaded :
          (intoMemwb (encode (.lw a b offset)) (s.dmem.read s.exmem.aluResult.toNat) n).idex.OperandsFrom f := h
      rw [memStageOf, loadWord, forwardFromMemory_idex]
      simpa [loadWrites, encode] using loaded.after_forward b (s.dmem.read s.exmem.aluResult.toNat)
    | add | nor | sw | beq | jalr | halt | noop => cases hl
  · rw [(memStageOf_latches hl hb).1]
    simpa [loadWrites, hl] using h

/-- Path 3: a LW in WB forwards the word it writes, and no other word in WB does (45_forwarding.md R125). -/
theorem IDEX.OperandsFrom.after_retire (h : n.idex.OperandsFrom f) :
    (retireWord s n).idex.OperandsFrom fun q =>
      if loadWrites s.memwb.instr q then s.memwb.writeData else f q := by
  rcases retireWord_cases s n with ⟨hr, e⟩ | ⟨hl, e⟩ | ⟨_, hl, e⟩
  · have hne : opcodeOf s.memwb.instr ≠ .lw := fun hl => by simp [hl, isRFormat] at hr
    simpa [e, loadWrites, hne] using h
  · have written : (n.setReg (s.reg.write (regB s.memwb.instr) s.memwb.writeData)).idex.OperandsFrom f := h
    rw [e, forwardFromWriteback]
    simpa [loadWrites, hl] using written.after_forward (regB s.memwb.instr) s.memwb.writeData
  · simpa [e, loadWrites, hl] using h

end Paths

/-! ### The operands after the whole cycle -/

/-- The value of the last path that writes register `r`, in the order WB, MEM, EX, register file (45_forwarding.md
R126); `cycles_operandsFrom` ties it to the cycle. -/
def State.forwardedValue (s : State) (r : Reg) : Word :=
  if loadWrites s.memwb.instr r then s.memwb.writeData
  else if loadWrites s.exmem.instr r then s.dmem.read s.exmem.aluResult.toNat
  else if aluWrites s.idex.instr r then aluResult (opcodeOf s.idex.instr) s.idex
  else s.reg.read r

section WholeCycle

variable {s t : State}

/-- ID and path 1 (47_pipeline_driver.md R153, R154). -/
theorem frontStages_operandsFrom (hs : s.stalls = false) :
    (frontStages s).idex.OperandsFrom fun q =>
      if aluWrites s.idex.instr q then aluResult (opcodeOf s.idex.instr) s.idex else s.reg.read q := by
  rw [frontStages_idex_of_no_stall s hs]
  have decoded := decodeLatch_operandsFrom s.reg s.ifid s.badA s.badB
  exact IDEX.OperandsFrom.after_executePath (n := (s.setIdex _).setExmem (executeLatch s.idex)) decoded

/-- The paths are applied in the order EX, MEM, WB, and the last one stays (45_forwarding.md R126). -/
theorem cycles_operandsFrom (h : s.Cycles t) (hs : s.stalls = false) (hb : s.takesBranch = false) :
    t.idex.OperandsFrom s.forwardedValue := by
  obtain ⟨i, hw, _, rfl⟩ := cycles_exec h
  have notTaken (hi : i.opcode = .beq) : resultIsZero s.exmem.aluResult = false := by
    rwa [takesBranch_of_beq (by simp [hw, hi])] at hb
  have afterMem := (frontStages_operandsFrom hs).after_memStage notTaken
  rw [← hw] at afterMem
  exact afterMem.after_retire

end WholeCycle

/-- Settles O38: the word in ID is the one now in `IDEX`, with its operands from the last matching path. -/
theorem operandComesFromTheLastMatchingPath : Obligations.OperandComesFromTheLastMatchingPath := by
  intro s t h hs hb
  have hword : t.idex.instr = s.ifid.instr := by simp [(cycles_flowsOn h hb).idex_instr, hs]
  obtain ⟨hA, hB⟩ := cycles_operandsFrom h hs hb
  rw [hword] at hA hB
  exact ⟨hA, hB⟩

/-- Settles O40: path 2 writes the store data of a SW behind a LW, and no path writes the ALU result. -/
theorem storeDataOverrideReachesTheStore : Obligations.StoreDataOverrideReachesTheStore := by
  intro s t h hb
  exact ⟨cycles_exmem_readRegB h hb, (cycles_flowsOn h hb).exmem_aluResult⟩

end Sys2Proof.Machine

/-! ## BEQ at the commit point: redirect, squash and the shadow of a taken branch (46_branch_squash.md) -/

namespace Sys2Proof.Machine

section Beq

variable {s t : State} {a b : Reg} {offset : Int}

/-- The refusal of R91 is JALR's and the address fault of 20_memory.md R35 is LW's and SW's: neither stops a BEQ. -/
theorem executable_beq : Executable (.beq a b offset) s := by
  constructor <;> simp [Instr.opcode]

/-! ### The squash replaces all that steps 2 to 4 wrote (R143, R145) -/

section Squash

variable (target : Word) (s n : State)

theorem redirectAndSquash_fetchStage :
    redirectAndSquash target (fetchStage s n) = redirectAndSquash target n := by
  unfold fetchStage
  split <;> rfl

theorem redirectAndSquash_decodeStage :
    redirectAndSquash target (decodeStage s n) = redirectAndSquash target n := by
  unfold decodeStage
  split <;> rfl

theorem redirectAndSquash_executeStage :
    redirectAndSquash target (executeStage s n) = redirectAndSquash target n := by
  unfold executeStage forwardFromExecute
  split <;> rfl

theorem redirectAndSquash_frontStages : redirectAndSquash target (frontStages s) = redirectAndSquash target s := by
  rw [frontStages, redirectAndSquash_executeStage, redirectAndSquash_decodeStage, redirectAndSquash_fetchStage]

end Squash

/-! ### The cycle of a taken BEQ -/

/-- The state a taken BEQ with the word `w` leaves. It is built from `s` without steps 2 to 4, of which nothing is left;
`exec_beq_taken` ties it to `exec`. -/
def State.afterTakenBranch (w : Word) (s : State) : State :=
  (writebackStage s (intoMemwb w 0 (redirectAndSquash s.exmem.branchTarget s))).setCycles (s.cycles + 1)

/-- A BEQ with the difference 0 that nothing stops (46_branch_squash.md R141 to R143). -/
theorem exec_beq_taken (hc : s.CycleClear) (hzero : s.exmem.aluResult = 0) :
    exec (.beq a b offset) s = .next (s.afterTakenBranch (encode (.beq a b offset))) := by
  have squashed : memStageOf (.beq a b offset) s (frontStages s) =
      intoMemwb (encode (.beq a b offset)) 0 (redirectAndSquash s.exmem.branchTarget s) := by
    rw [← redirectAndSquash_frontStages _ s, memStageOf, resolveBranch, if_pos (by simp [hzero, resultIsZero])]
    rfl
  exact exec_next_iff.mpr ⟨executable_beq, hc, by rw [squashed, State.afterTakenBranch]⟩

section Fields

variable (w : Word)

@[simp] theorem afterTakenBranch_pc : (s.afterTakenBranch w).pc = s.exmem.branchTarget := by
  simp [State.afterTakenBranch]
@[simp] theorem afterTakenBranch_dmem : (s.afterTakenBranch w).dmem = s.dmem := by
  simp [State.afterTakenBranch]
@[simp] theorem afterTakenBranch_ifid : (s.afterTakenBranch w).ifid = bubbleIfid := by
  simp [State.afterTakenBranch]
@[simp] theorem afterTakenBranch_exmem : (s.afterTakenBranch w).exmem = bubbleExmem := by
  simp [State.afterTakenBranch]
@[simp] theorem afterTakenBranch_memwb : (s.afterTakenBranch w).memwb = { instr := w, writeData := 0 } := by
  simp [State.afterTakenBranch]

/-- No forward of WB reaches the bubble (45_forwarding.md R125). -/
@[simp] theorem afterTakenBranch_idex : (s.afterTakenBranch w).idex = bubbleIdex :=
  retireWord_idex_of_bubble rfl

/-- The squash writes neither registers nor memories, and WB does the rest. -/
theorem afterTakenBranch_commonFrame : s.CommonFrame (s.afterTakenBranch w) :=
  KeepsFrame.commonFrame (by constructor <;> simp)

end Fields

/-- A committed cycle that takes a branch is that of a BEQ with the difference 0 (46_branch_squash.md R141). -/
theorem cycles_takes_beq (h : s.Cycles t) (hb : s.takesBranch = true) :
    s.halted = false ∧ s.exmem.aluResult = 0 ∧
      ∃ a b offset, decode s.exmem.instr = .ok (.beq a b offset) ∧
        t = s.afterTakenBranch (encode (.beq a b offset)) := by
  obtain ⟨hhalt, i, hd, he⟩ := (cycles_iff s t).mp h
  simp only [State.takesBranch, Bool.and_eq_true, beq_iff_eq, opcodeOf_of_decode hd, resultIsZero] at hb
  obtain ⟨hop, hzero⟩ := hb
  cases i with
  | beq a b offset =>
    obtain ⟨_, hc, _⟩ := exec_next_iff.mp he
    rw [exec_beq_taken hc hzero, Host.Outcome.next.injEq] at he
    exact ⟨hhalt, hzero, a, b, offset, hd, he.symm⟩
  | add | nor | lw | sw | jalr | halt | noop => cases hop

/-- What a taken branch leaves depends neither on the latches of ID and EX nor on `imem` (46_branch_squash.md R147). -/
theorem afterTakenBranch_of_other_shadow (w : Word) (younger : IFID) (older : IDEX) (m : Memory) :
    (((s.setIfid younger).setIdex older).withImem m).afterTakenBranch w = (s.afterTakenBranch w).withImem m := by
  have wb := writebackStage_withImem m s (intoMemwb w 0 (redirectAndSquash s.exmem.branchTarget s))
  exact congrArg (State.setCycles · (s.cycles + 1)) wb

/-! ### A BEQ that is not taken -/

/-- WB neither reads nor writes the new `MEMWB` (47_pipeline_driver.md R156). -/
theorem writebackStage_setMemwb (s n : State) (l : MEMWB) :
    writebackStage s (n.setMemwb l) = (writebackStage s n).setMemwb l := by
  unfold writebackStage retireWord
  cases opcodeOf s.memwb.instr <;> rfl

end Beq

/-- Settles O20: the MEM stage of the BEQ replaces what steps 2 to 4 wrote, so the next state is `afterTakenBranch`. -/
theorem takenBranchRedirectsAndSquashes : Obligations.TakenBranchRedirectsAndSquashes := by
  intro a b offset s hc hzero
  exact ⟨_, exec_beq_taken hc hzero, by simp, by simp, by simp, by simp, by simp, by simp,
    afterTakenBranch_commonFrame _⟩

/-- Settles O21: the MEM stage of the BEQ is then a NOOP's, which writes `MEMWB` only, and WB does not touch that latch. -/
theorem branchNotTakenChangesNothingElse : Obligations.BranchNotTakenChangesNothingElse := by
  intro a b offset s hc hne
  have hm : memStageOf (.beq a b offset) s = intoMemwb (encode (.beq a b offset)) 0 := by
    funext n
    exact resolveBranch_of_not_taken _ _ _ _ (by simpa [resultIsZero] using hne)
  have noop : Executable (.noop 0) s := by constructor <;> simp [Instr.opcode]
  refine ⟨_, exec_next_iff.mpr ⟨executable_beq, hc, rfl⟩, ?_⟩
  rw [hm]
  refine ⟨by simp, by simp, (intoMemwb_keepsFrame ..).commonFrame, (intoMemwb_passesOn ..).flowsOn,
    by simp [executeLatch], _, exec_next_iff.mpr ⟨noop, hc, rfl⟩, ?_⟩
  simp only [memStageOf, intoMemwb_eq, writebackStage_setMemwb]
  rfl

/-- Settles O43: the halt check, the word in MEM and what the taken branch leaves are those of `s`, whatever its shadow. -/
theorem shadowOfATakenBranchLeavesNothing : Obligations.ShadowOfATakenBranchLeavesNothing := by
  intro s t younger older hb h hc m
  obtain ⟨hhalt, hzero, a, b, offset, hd, rfl⟩ := cycles_takes_beq h hb
  have committed : (((s.setIfid younger).setIdex older).withImem m).Cycles
      ((((s.setIfid younger).setIdex older).withImem m).afterTakenBranch (encode (.beq a b offset))) :=
    (cycles_iff _ _).mpr ⟨hhalt, _, hd, exec_beq_taken hc hzero⟩
  rwa [afterTakenBranch_of_other_shadow] at committed

end Sys2Proof.Machine

/-! ## The pipeline driver: the step, the halt, the fetch and the policy (47_pipeline_driver.md) -/

namespace Sys2Proof.Machine

/-! ### The step (R151, R155) -/

section Driver

variable {s : State} {i : Instr}

theorem step_of_halted (hh : s.halted = true) : step s = .next s := by
  simp [step, commitSlot, hh]

theorem step_of_decode_ok (hh : s.halted = false) (hd : decode s.exmem.instr = .ok i) : step s = exec i s := by
  simp [step, commitSlot, hh, hd]

theorem step_of_decode_error {e : DecodeError} (hh : s.halted = false) (hd : decode s.exmem.instr = .error e) :
    step s = .fault (.illegalInstruction s.exmem.instr) := by
  simp [step, commitSlot, hh, hd]

theorem halted_iff : s.halted = true ↔ opcodeOf s.memwb.instr = .halt := beq_iff_eq

/-- Only the halt check ends a run with the count: no outcome of `step` is `Halted` (R151; log entry 1). -/
theorem cycle_ne_halted (hh : s.halted = false) (k : Nat) : cycle s ≠ .halted k := by
  unfold cycle
  rw [hh]
  cases step s <;> simp

/-- A state that its step answers again is where every run from it stands. -/
theorem run_of_step_self (M : Host.Core) {s : M.State} (h : M.step s = .next s) (k : Nat) : M.run k s = .next s := by
  induction k with
  | zero => rfl
  | succ k ih =>
    rw [Host.Core.run, h]
    exact ih

end Driver

/-- Settles O7: the halt check comes first, then the decoder chooses between the instruction and the fault. -/
theorem stepRunsTheDecodedInstruction : Obligations.StepRunsTheDecodedInstruction := by
  intro s
  exact ⟨fun hh _ hd => step_of_decode_ok hh hd, fun hh _ hd => step_of_decode_error hh hd, step_of_halted⟩

/-! ### The placed word (log entry 3) -/

theorem decodeTableWord_eq_some (nbits w : Nat) (i : Instr) :
    decodeTableWord nbits w = some i ↔ decode (tableWord nbits w) = .ok i := by
  unfold decodeTableWord
  cases decode (tableWord nbits w) <;> simp

/-- Settles O8: placing leaves `MEMWB`, where the halt check looks, as it is, and puts the table word where the step
decodes. -/
theorem placedWordIsTheOneRun : Obligations.PlacedWordIsTheOneRun := by
  intro s nbits w i hh hw
  have placed : decode (s.withFetchWord nbits w).exmem.instr = .ok i := (decodeTableWord_eq_some nbits w i).mp hw
  exact ⟨step_of_decode_ok hh placed, rfl⟩

/-- Settles O9: the halt check reports the count, and every cycle that passes it has another outcome. -/
theorem haltCheckReportsTheCycleCounter : Obligations.HaltCheckReportsTheCycleCounter := by
  intro s k
  cases hh : s.halted with
  | true =>
    have hop := halted_iff.mp hh
    rw [cycle_of_halt hop, CycleOutcome.halted.injEq]
    exact ⟨fun hk => ⟨hop, hk.symm⟩, fun ⟨_, hk⟩ => hk.symm⟩
  | false =>
    refine ⟨fun h => absurd h (cycle_ne_halted hh k), fun ⟨hop, _⟩ => ?_⟩
    rw [halted_iff.mpr hop] at hh
    cases hh

/-- Settles O10: each step answers the halted state itself, so any number of them does (R158, decision D19). -/
theorem haltedMachineStaysAsItIs : Obligations.HaltedMachineStaysAsItIs := by
  intro k s hh
  exact ⟨run_of_step_self core (step_of_halted hh) k, cycle_of_halt (halted_iff.mp hh)⟩

/-! ### The fetch (R152, 20_memory.md R36) -/

section Fetch

variable {s t : State}

theorem nextPc_eq_wrap32 : s.nextPc = wrap32 (s.pc.toInt + 1) := addResult_eq_wrap32 s.pc 1

theorem cycles_clear (h : s.Cycles t) : s.CycleClear := by
  obtain ⟨_, _, _, he⟩ := (cycles_iff s t).mp h
  obtain ⟨_, hc, _⟩ := exec_next_iff.mp he
  exact hc

/-- A committed cycle that fetches does so at an address of `imem`. -/
theorem cycles_pc_inRange (h : s.Cycles t) (hs : s.stalls = false) : 0 ≤ s.pc.toInt ∧ s.pc.toInt ≤ 65535 := by
  obtain ⟨_, hfetch⟩ := cycles_clear h
  exact (addressInRange_iff_toInt _).mp (hfetch hs)

/-- Without a stall or a squash the fetched word and the advanced pc are in the next state (R152). -/
theorem cycles_fetches (h : s.Cycles t) (hs : s.stalls = false) (hb : s.takesBranch = false) :
    t.ifid = fetchLatch s ∧ t.pc = s.nextPc := by
  have flow := cycles_flowsOn h hb
  have hpc := flow.pc
  have hinstr := flow.ifid_instr
  have hpcPlus1 := flow.ifid_pcPlus1
  simp only [hs, Bool.false_eq_true, if_false] at hpc hinstr hpcPlus1
  exact ⟨congrArg₂ IFID.mk hinstr hpcPlus1, hpc⟩

end Fetch

/-- Settles O34: without a stall IF writes `fetchLatch` and the next pc; on a stall both are held. -/
theorem fetchCopiesTheWordAtThePc : Obligations.FetchCopiesTheWordAtThePc := by
  intro s t h hb
  refine ⟨fun hs => ?_, fun hs => (cycles_holds_fetch h hs hb).symm⟩
  obtain ⟨hifid, hpc⟩ := cycles_fetches h hs hb
  rw [hifid, hpc, ← nextPc_eq_wrap32]
  exact ⟨cycles_pc_inRange h hs, rfl, rfl, rfl⟩

/-! ### The policy decides whether a cycle is committed, not what it computes (70_reset_and_hazards.md R214) -/

/-- The state under another `RAW_POLICY`, all else as it is. -/
def State.withPolicy (s : State) (p : RawPolicy) : State := { s with rawPolicy := p }

section OtherPolicy

variable (p : RawPolicy) (s : State)

/-- A step of the cycle, from the old snapshot to the one under construction, that does not read the policy. -/
def IgnoresPolicy (f : State → State → State) : Prop :=
  ∀ p s n, f (s.withPolicy p) (n.withPolicy p) = (f s n).withPolicy p

@[simp] theorem State.withPolicy_memwb : (s.withPolicy p).memwb = s.memwb := rfl

/-- The policy may be replaced before or after a choice. -/
theorem withPolicy_ite (c : Bool) (a b : State) :
    (if c then a else b).withPolicy p = if c then a.withPolicy p else b.withPolicy p :=
  apply_ite (State.withPolicy · p) _ _ _

theorem fetchStage_ignoresPolicy : IgnoresPolicy fetchStage := by
  intro p s n
  rw [fetchStage, fetchStage, withPolicy_ite]
  rfl

theorem decodeStage_ignoresPolicy : IgnoresPolicy decodeStage := by
  intro p s n
  rw [decodeStage, decodeStage, withPolicy_ite]
  rfl

theorem executeStage_ignoresPolicy : IgnoresPolicy executeStage := by
  intro p s n
  rw [executeStage, executeStage, forwardFromExecute, forwardFromExecute, withPolicy_ite]
  rfl

theorem memStageOf_ignoresPolicy (i : Instr) : IgnoresPolicy (memStageOf i) := by
  intro p s n
  cases i with
  | add | nor | sw | jalr | halt | noop => rfl
  | lw =>
    simp only [memStageOf, loadWord, forwardFromMemory, forwardStoreData, withPolicy_ite]
    rfl
  | beq =>
    simp only [memStageOf, resolveBranch, withPolicy_ite]
    rfl

theorem writebackStage_ignoresPolicy : IgnoresPolicy writebackStage := by
  intro p s n
  unfold writebackStage retireWord
  rw [State.withPolicy_memwb]
  cases opcodeOf s.memwb.instr <;> rfl

theorem frontStages_withPolicy : frontStages (s.withPolicy p) = (frontStages s).withPolicy p := by
  rw [frontStages, fetchStage_ignoresPolicy, decodeStage_ignoresPolicy, executeStage_ignoresPolicy, frontStages]

variable {p s} {t : State}

/-- A committed cycle is committed alike under a policy that does not fault it. -/
theorem cycles_withPolicy (h : s.Cycles t) (hbad : p = .strict → s.exmem.bad = false) :
    (s.withPolicy p).Cycles (t.withPolicy p) := by
  obtain ⟨hhalt, i, hd, he⟩ := (cycles_iff s t).mp h
  obtain ⟨⟨hjalr, haddr⟩, ⟨_, hfetch⟩, rfl⟩ := exec_next_iff.mp he
  refine (cycles_iff _ _).mpr ⟨hhalt, i, hd, exec_next_iff.mpr ⟨⟨hjalr, haddr⟩, ⟨hbad, hfetch⟩, ?_⟩⟩
  rw [frontStages_withPolicy, memStageOf_ignoresPolicy, writebackStage_ignoresPolicy]
  rfl

end OtherPolicy

/-- Settles O41: the literal policy faults no mark, and the strict policy no instruction that is not marked. -/
theorem strictPolicyChangesNoValue : Obligations.StrictPolicyChangesNoValue := by
  intro s t
  constructor
  · intro h
    exact cycles_withPolicy (s := s.withPolicy .strict) (p := .literal) h (by simp)
  · intro hbad h
    exact cycles_withPolicy (s := s.withPolicy .literal) (t := t.withPolicy .literal) (p := .strict) h fun _ => hbad

end Sys2Proof.Machine

/-! ## The outcomes of a cycle, and the state after reset and load (60_exceptions.md, 70_reset_and_hazards.md) -/

namespace Sys2Proof.Machine

/-! ### The outcomes of a cycle, in the order of R182 -/

section Outcomes

variable {s : State} {i : Instr}

theorem cycle_of_step_fault {r : Fault} (hh : s.halted = false) (h : step s = .fault r) : cycle s = .fault r := by
  simp [cycle, hh, h]

theorem cycle_of_step_refused {r : Refusal} (hh : s.halted = false) (h : step s = .refused r) :
    cycle s = .refused r := by
  simp [cycle, hh, h]

theorem decode_of_valid {w : Word} (h : valid w = true) : decode w = .ok (fieldsOf w) :=
  (decode_ok_iff w _).mpr ⟨h, rfl⟩

theorem decode_of_not_valid {w : Word} (h : valid w = false) : ∃ e, decode w = .error e := by
  cases hd : decode w with
  | ok i =>
    obtain ⟨hvalid, _⟩ := (decode_ok_iff w i).mp hd
    simp [h] at hvalid
  | error e => exact ⟨e, rfl⟩

theorem step_of_valid (hh : s.halted = false) (hw : valid s.exmem.instr = true) :
    step s = exec (fieldsOf s.exmem.instr) s :=
  step_of_decode_ok hh (decode_of_valid hw)

theorem exec_of_opcode_jalr (h : i.opcode = .jalr) : exec i s = .refused .jalrNotSpecified := by
  cases i with
  | jalr => rfl
  | add | nor | lw | sw | beq | halt | noop => cases h

/-- LW and SW with a bad address stop before their cycle (20_memory.md R35). -/
theorem exec_of_address_outside (h : i.opcode = .lw ∨ i.opcode = .sw) (hout : addressInRange s.exmem.aluResult = false) :
    exec i s = .fault (.dataAddressOutOfRange s.exmem.aluResult) := by
  rw [← Bool.not_eq_true, addressInRange_iff_toInt] at hout
  cases i with
  | lw a b offset => exact (accessOutsideTheMemoryFaults a b offset s hout).1
  | sw a b offset => exact (accessOutsideTheMemoryFaults a b offset s hout).2
  | add | nor | beq | jalr | halt | noop => rcases h with h | h <;> cases h

/-- The word in MEM passes its own checks: the rest of the cycle is `commitCycle` (60_exceptions.md R182). -/
theorem step_eq_commitCycle (hh : s.halted = false) (hw : valid s.exmem.instr = true)
    (hj : opcodeOf s.exmem.instr ≠ .jalr)
    (ha : opcodeOf s.exmem.instr = .lw ∨ opcodeOf s.exmem.instr = .sw → addressInRange s.exmem.aluResult = true) :
    step s = commitCycle s (memStageOf (fieldsOf s.exmem.instr) s) := by
  have hx : Executable (fieldsOf s.exmem.instr) s := ⟨by simpa using hj, by simpa using ha⟩
  rw [step_of_valid hh hw, exec_eq_commitCycle hx]

/-- `unforwarded` in the words of R214. -/
theorem unforwarded_iff : unforwarded s = true ↔ s.rawPolicy = .strict ∧ s.exmem.bad = true := by
  unfold unforwarded
  cases s.rawPolicy <;> simp

theorem fetchAllowed_iff : s.fetchAllowed = true ↔ s.stalls = true ∨ addressInRange s.pc = true := by
  simp [State.fetchAllowed]

end Outcomes

/-- Settles O11: the validity check, the instruction's own conditions, then the two of `commitCycle`. -/
theorem cycleOutcomesFollowTheStatedOrder : Obligations.CycleOutcomesFollowTheStatedOrder := by
  intro s w memoryAccess addressed faulted fetchable
  refine ⟨fun hh hw => ?_, fun hh hw hj => ?_, fun hh hw hmem hout => ?_, fun hh hw hj ha hf => ?_,
    fun hh hw hj ha hf hp => ?_, fun hh hw hj ha hf hp => ?_⟩
  · obtain ⟨e, hd⟩ := decode_of_not_valid hw
    exact cycle_of_step_fault hh (step_of_decode_error hh hd)
  · refine cycle_of_step_refused hh ?_
    rw [step_of_valid hh hw, exec_of_opcode_jalr (by simpa using hj)]
  · refine cycle_of_step_fault hh ?_
    rw [step_of_valid hh hw, exec_of_address_outside (by simpa using hmem) hout]
  · refine cycle_of_step_fault hh ?_
    rw [step_eq_commitCycle hh hw hj ha, commitCycle, if_pos (unforwarded_iff.mpr hf)]
  · refine cycle_of_step_fault hh ?_
    rw [step_eq_commitCycle hh hw hj ha, commitCycle, if_neg (mt unforwarded_iff.mp hf),
      if_neg (mt fetchAllowed_iff.mp hp)]
  · refine ⟨(writebackStage s (memStageOf (fieldsOf w) s (frontStages s))).setCycles (s.cycles + 1), ?_⟩
    refine (cycles_iff s _).mpr ⟨hh, _, decode_of_valid hw, ?_⟩
    rw [← step_of_valid hh hw, step_eq_commitCycle hh hw hj ha, commitCycle, if_neg (mt unforwarded_iff.mp hf),
      if_pos (fetchAllowed_iff.mpr hp)]

/-! ### Reset and load -/

/-- Settles O13: empty memories, and NOOPs in `MEMWB` and `WBEND`. -/
theorem resetHasTheInvariant : Obligations.ResetHasTheInvariant where
  imem_wf := Memory.wf_nil
  dmem_wf := Memory.wf_nil
  nmem_le := Nat.zero_le _
  memwb_valid := valid_noopInstr
  memwb_not_jalr := by simp [State.reset]
  wbend_valid := valid_noopInstr
  wbend_not_jalr := by simp [State.reset]
  wbend_not_halt := by simp [State.reset]

section Load

variable {policy : RawPolicy} {reg0 : RegFile} {image : List Int} {s : State}

/-- Which images load, and the one state each gives (R203, R205). -/
theorem loadImage_eq_ok_iff :
    loadImage policy reg0 image = .ok s ↔
      (image.length ≤ Config.memoryWords ∧ ∀ v ∈ image, fitsWord v = true) ∧
        State.withImage policy reg0 (image.map wrap32) = s := by
  constructor
  · intro h
    unfold loadImage at h
    split at h
    · next hlen =>
      split at h
      · next ws hws =>
        obtain ⟨hfits, rfl⟩ := imageWords_ok _ _ _ hws
        cases h
        exact ⟨⟨hlen, hfits⟩, rfl⟩
      · cases h
    · cases h
  · rintro ⟨⟨hlen, hfits⟩, rfl⟩
    rw [loadImage, if_pos hlen, imageWords_of_fits 0 image hfits]

theorem fitsWord_iff (v : Int) : fitsWord v = true ↔ -2147483648 ≤ v ∧ v ≤ 2147483647 := by
  simp [fitsWord]

/-- The words of an image are read back at their addresses, and 0 behind them (20_memory.md R37, decision D4). -/
theorem Memory.read_ofWords (a k : Nat) (ws : List Word) : (Memory.ofWords a ws).read (a + k) = ws.getD k 0 := by
  induction ws generalizing a k with
  | nil => rfl
  | cons w ws ih =>
    have unlisted : (Memory.ofWords (a + 1) ws).read a = unlistedWord :=
      Memory.read_below _ _ fun c hc => (Memory.ofWords_bounds _ _ c hc).1
    rw [Memory.ofWords, Memory.read_listCell _ _ _ _ unlisted]
    cases k with
    | zero => simp
    | succ k =>
      have hnext : a + (k + 1) = a + 1 + k := by omega
      rw [if_neg (by omega), hnext, ih, List.getD_cons_succ]

theorem withImage_inv {ws : List Word} (h : ws.length ≤ Config.memoryWords) : (State.withImage policy reg0 ws).Inv :=
  { resetHasTheInvariant with
    imem_wf := Memory.ofWords_wf 0 ws (by omega)
    dmem_wf := Memory.ofWords_wf 0 ws (by omega)
    nmem_le := h }

end Load

/-- Settles O14: the latches are those of the reset state, and an image that fits the array gives canonical memories. -/
theorem loadedStateHasTheInvariant : Obligations.LoadedStateHasTheInvariant := by
  intro policy reg0 image s h
  obtain ⟨⟨hlen, _⟩, rfl⟩ := loadImage_eq_ok_iff.mp h
  exact withImage_inv (by rwa [List.length_map])

/-- Settles O15: the loader's two checks, and the words it lays into both arrays. -/
theorem loadedStateHoldsTheImage : Obligations.LoadedStateHoldsTheImage := by
  intro policy reg0 image
  constructor
  · simp [loadImage_eq_ok_iff, fitsWord_iff, Config.memoryWords]
  · intro s h
    obtain ⟨_, rfl⟩ := loadImage_eq_ok_iff.mp h
    refine ⟨fun a => ?_, rfl, List.length_map _, rfl, rfl, rfl, rfl, ⟨rfl, rfl, rfl, rfl⟩, rfl⟩
    calc (Memory.ofWords 0 (image.map wrap32)).read a
      _ = (image.map wrap32).getD a 0 := by simpa using Memory.read_ofWords 0 a (image.map wrap32)
      _ = (image.map wrap32).getD a (wrap32 0) := rfl
      _ = wrap32 (image.getD a 0) := List.getD_map ..

end Sys2Proof.Machine

/-! ## The ghost bits, and the values of the instructions in flight (70_reset_and_hazards.md R214) -/

namespace Sys2Proof.Machine

/-! ### An operand that is not marked -/

section Unmarked

variable {s t : State} {r : Reg} {storeData : Bool}

/-- Behind the LW that loads it an operand is marked, unless the override mends it (R214). -/
theorem storeData_of_not_rawHazard {i e m : Word} (h : rawHazard i e m storeData r = false)
    (hload : loadWrites i r = true) : storeData = true := by
  simpa [rawHazard, hload] using h

/-- Where no mark is set, the oldest matching path is also the youngest writer, and a writer that no path serves is not
there (45_forwarding.md R126, R129). -/
theorem forwardedValue_eq_youngestValue
    (h : rawHazard s.idex.instr s.exmem.instr s.memwb.instr storeData r = false)
    (hload : loadWrites s.idex.instr r = false) : s.forwardedValue r = s.youngestValue r := by
  rw [rawHazard, hload, if_neg (by simp)] at h
  unfold State.forwardedValue State.youngestValue State.regAfter
  by_cases aluInEx : aluWrites s.idex.instr r = true
  · simp only [aluInEx, if_true, Bool.or_eq_false_iff] at h
    simp [h, aluInEx]
  rw [if_neg aluInEx] at h
  by_cases loadInMem : loadWrites s.exmem.instr r = true
  · rw [if_pos loadInMem] at h
    simp [h, aluInEx, loadInMem]
  rw [if_neg loadInMem] at h
  by_cases aluInMem : aluWrites s.exmem.instr r = true
  · simp [aluInMem] at h
  rw [if_neg aluInMem] at h
  by_cases loadInWb : loadWrites s.memwb.instr r = true
  · simp [aluInEx, loadInMem, aluInMem, loadInWb]
  · rw [if_neg loadInWb] at h
    simp [aluInEx, loadInMem, aluInMem, loadInWb, h]

/-- `badA` of a word in ID that reads its `regA` (R214). -/
theorem rawHazard_of_not_badA (hA : srcA (opcodeOf s.ifid.instr) = true) (h : s.badA = false) :
    rawHazard s.idex.instr s.exmem.instr s.memwb.instr false (regA s.ifid.instr) = false := by
  simpa [State.badA, hA] using h

/-- `badB` of a word in ID that reads its `regB` (R214). -/
theorem rawHazard_of_not_badB (hB : srcB (opcodeOf s.ifid.instr) = true) (h : s.badB = false) :
    rawHazard s.idex.instr s.exmem.instr s.memwb.instr (opcodeOf s.ifid.instr == .sw) (regB s.ifid.instr) = false := by
  simpa [State.badB, hB] using h

theorem not_loadWrites_of_not_badA (hA : srcA (opcodeOf s.ifid.instr) = true) (h : s.badA = false) :
    loadWrites s.idex.instr (regA s.ifid.instr) = false :=
  Bool.eq_false_iff.mpr fun hload => nomatch storeData_of_not_rawHazard (rawHazard_of_not_badA hA h) hload

theorem not_loadWrites_of_not_badB (hB : srcB (opcodeOf s.ifid.instr) = true) (h : s.badB = false)
    (hsw : ¬ (opcodeOf s.ifid.instr = .sw ∧ loadWrites s.idex.instr (regB s.ifid.instr) = true)) :
    loadWrites s.idex.instr (regB s.ifid.instr) = false :=
  Bool.eq_false_iff.mpr fun hload =>
    hsw ⟨beq_iff_eq.mp (storeData_of_not_rawHazard (rawHazard_of_not_badB hB h) hload), hload⟩

end Unmarked

/-- Settles O39: the marks of the new `IDEX` are those of the word in ID, and an unmarked operand has no younger writer than
the one the last matching path serves. -/
theorem operandNotMarkedBadIsTheYoungestValue : Obligations.OperandNotMarkedBadIsTheYoungestValue := by
  intro s t h hs hb
  have flow := cycles_flowsOn h hb
  have marks : t.idex.badA = s.badA ∧ t.idex.badB = s.badB := by simp [flow.idex_badA, flow.idex_badB, hs]
  obtain ⟨operandA, operandB⟩ := operandComesFromTheLastMatchingPath s t h hs hb
  rw [marks.1, marks.2]
  refine ⟨fun hA hbad => ?_, fun hB hbad hsw => ?_⟩
  · exact (operandA hA).trans
      (forwardedValue_eq_youngestValue (rawHazard_of_not_badA hA hbad) (not_loadWrites_of_not_badA hA hbad))
  · exact (operandB hB).trans
      (forwardedValue_eq_youngestValue (rawHazard_of_not_badB hB hbad) (not_loadWrites_of_not_badB hB hbad hsw))

/-! ### The values an unmarked instruction carries through EX and MEM -/

section Carried

variable {s t : State} {r : Reg}

/-- What register `r` holds once the words in MEM and WB have written it: what the sequential meaning wants an operand of the
word in EX to be (45_forwarding.md R129). -/
def State.valueBeforeEx (s : State) (r : Reg) : Word :=
  if loadWrites s.exmem.instr r then s.dmem.read s.exmem.aluResult.toNat
  else if aluWrites s.exmem.instr r then s.exmem.aluResult
  else s.regAfter r

/-- The registers once the word in WB has written (47_pipeline_driver.md R156): those the word in MEM is executed on. -/
def State.retiredReg (s : State) : RegFile := (retireWord s s).reg

@[simp] theorem retiredReg_read : s.retiredReg.read r = s.regAfter r := retireWord_reg s s rfl r

theorem youngestValue_eq : s.youngestValue r =
    if aluWrites s.idex.instr r then aluResult (opcodeOf s.idex.instr) s.idex else s.valueBeforeEx r := rfl

theorem loadWrites_iff {w : Word} : loadWrites w r = true ↔ opcodeOf w = .lw ∧ regB w = r := by
  simp [loadWrites]

theorem opcode_of_loadWrites {w : Word} (h : loadWrites w r = true) : opcodeOf w = .lw :=
  (loadWrites_iff.mp h).1

theorem isRFormat_of_aluWrites {w : Word} (h : aluWrites w r = true) : isRFormat (opcodeOf w) = true := by
  simp only [aluWrites, Bool.and_eq_true] at h
  exact h.1

/-- The word in MEM writes its register in the next cycle's WB (47_pipeline_driver.md R155, R156). -/
theorem cycles_regAfter (h : s.Cycles t) : t.regAfter r = s.valueBeforeEx r := by
  rw [State.regAfter, State.valueBeforeEx, cycles_memwb_word h, (everyCycleHasTheCommonFrame s t h).reg]
  by_cases hload : loadWrites s.exmem.instr r = true
  · simp [hload, cycles_memwb_loaded h (opcode_of_loadWrites hload)]
  by_cases halu : aluWrites s.exmem.instr r = true
  · simp [hload, halu, cycles_memwb_aluResult h (isRFormat_of_aluWrites halu)]
  · simp [hload, halu]

theorem cycles_retiredReg_read (h : s.Cycles t) : t.retiredReg.read r = s.valueBeforeEx r :=
  retiredReg_read.trans (cycles_regAfter h)

/-- The word in EX has its result in `EXMEM` in the next cycle, unless it is a LW (45_forwarding.md R122, R129). -/
theorem cycles_valueBeforeEx (h : s.Cycles t) (hb : s.takesBranch = false)
    (hload : loadWrites s.idex.instr r = false) : t.valueBeforeEx r = s.youngestValue r := by
  have flow := cycles_flowsOn h hb
  rw [State.valueBeforeEx, flow.exmem_instr, flow.exmem_aluResult, hload, if_neg (by simp), cycles_regAfter h,
    youngestValue_eq]

/-- EX reads the operands its opcode names, and not the store data (47_pipeline_driver.md R154). -/
theorem aluResult_congr {op : Opcode} {i j : IDEX} (hA : srcA op = true → i.readRegA = j.readRegA)
    (hB : srcB op = true → op ≠ .sw → i.readRegB = j.readRegB) (hoffset : i.offset = j.offset) :
    aluResult op i = aluResult op j := by
  cases op with
  | add | nor | beq => simp only [aluResult, hA rfl, hB rfl (by simp)]
  | lw | sw => simp only [aluResult, hA rfl, hoffset]
  | jalr | halt | noop => rfl

/-- The word in EX carries its own offset and, where no mark is set, the operands of the sequential meaning; the store data of
a SW behind its LW is still to be overridden (R214, 45_forwarding.md R124). -/
structure State.IdexCurrent (s : State) : Prop where
  offset : s.idex.offset = sext16 (low16 s.idex.instr)
  readRegA : srcA (opcodeOf s.idex.instr) = true → s.idex.badA = false →
    s.idex.readRegA = s.valueBeforeEx (regA s.idex.instr)
  readRegB : srcB (opcodeOf s.idex.instr) = true → s.idex.badB = false → s.overridesStoreData = false →
    s.idex.readRegB = s.valueBeforeEx (regB s.idex.instr)

/-- Where no mark is set, the word in MEM carries what EX computes from the registers it is executed on (R214). -/
structure State.ExmemCurrent (s : State) : Prop where
  aluResult : s.exmem.bad = false → s.exmem.aluResult =
    aluResult (opcodeOf s.exmem.instr) (decodeLatch s.retiredReg { instr := s.exmem.instr, pcPlus1 := 0 })
  readRegB : s.exmem.bad = false → srcB (opcodeOf s.exmem.instr) = true →
    s.exmem.readRegB = s.regAfter (regB s.exmem.instr)

theorem idexCurrent_of_bubble (h : s.idex = bubbleIdex) : s.IdexCurrent where
  offset := by rw [h]; decide
  readRegA hA := by simp [h, bubbleIdex, srcA] at hA
  readRegB hB := by simp [h, bubbleIdex, srcB] at hB

theorem exmemCurrent_of_bubble (h : s.exmem = bubbleExmem) : s.ExmemCurrent where
  aluResult _ := by simp [h, bubbleExmem, aluResult]
  readRegB _ hB := by simp [h, bubbleExmem, srcB] at hB

/-- A word that leaves ID takes the youngest values with it, which are those before EX in the next cycle. -/
theorem cycles_idexCurrent (h : s.Cycles t) (hs : s.stalls = false) (hb : s.takesBranch = false) : t.IdexCurrent := by
  have flow := cycles_flowsOn h hb
  have word : t.idex.instr = s.ifid.instr := by simp [flow.idex_instr, hs]
  have badA : t.idex.badA = s.badA := by simp [flow.idex_badA, hs]
  have badB : t.idex.badB = s.badB := by simp [flow.idex_badB, hs]
  obtain ⟨youngestA, youngestB⟩ := operandNotMarkedBadIsTheYoungestValue s t h hs hb
  constructor
  · rw [flow.idex_offset, word, if_neg (by simp [hs])]
  · intro hA hbad
    rw [word] at hA ⊢
    rw [youngestA hA hbad, cycles_valueBeforeEx h hb (not_loadWrites_of_not_badA hA (badA ▸ hbad))]
  · intro hB hbad hover
    rw [word] at hB ⊢
    have hsw : ¬ (opcodeOf s.ifid.instr = .sw ∧ loadWrites s.idex.instr (regB s.ifid.instr) = true) := by
      rintro ⟨hsw, hload⟩
      rw [overridesStoreData_of_sw (by rw [word, hsw]), flow.exmem_instr, word, hload] at hover
      cases hover
    rw [youngestB hB hbad hsw, cycles_valueBeforeEx h hb (not_loadWrites_of_not_badB hB (badB ▸ hbad) hsw)]

/-- EX computes from current operands, and the override mends the store data that was not (45_forwarding.md R124). -/
theorem cycles_exmemCurrent (h : s.Cycles t) (hb : s.takesBranch = false) (hcur : s.IdexCurrent) : t.ExmemCurrent := by
  have flow := cycles_flowsOn h hb
  have marks (hbad : t.exmem.bad = false) : s.idex.badA = false ∧ s.idex.badB = false := by
    simpa [flow.exmem_bad] using hbad
  constructor
  · intro hbad
    obtain ⟨hbadA, hbadB⟩ := marks hbad
    rw [flow.exmem_aluResult, flow.exmem_instr]
    refine aluResult_congr (fun hA => ?_) (fun hB hsw => ?_) hcur.offset
    · exact (hcur.readRegA hA hbadA).trans (cycles_retiredReg_read h).symm
    · have hover : s.overridesStoreData = false := by simp [State.overridesStoreData, hsw]
      exact (hcur.readRegB hB hbadB hover).trans (cycles_retiredReg_read h).symm
  · intro hbad hB
    obtain ⟨_, hbadB⟩ := marks hbad
    rw [flow.exmem_instr] at hB
    rw [cycles_exmem_readRegB h hb, flow.exmem_instr, cycles_regAfter h]
    cases hover : s.overridesStoreData with
    | false => exact hcur.readRegB hB hbadB hover
    | true =>
      have hload : loadWrites s.exmem.instr (regB s.idex.instr) = true := by
        simp only [State.overridesStoreData, Bool.and_eq_true, beq_iff_eq] at hover
        obtain ⟨⟨hlw, _⟩, hreg⟩ := hover
        exact loadWrites_iff.mpr ⟨hlw, hreg.symm⟩
      simp [State.valueBeforeEx, hload]

/-- Every committed cycle keeps the carried values current, whatever it stalls, squashes or marks. -/
theorem cycles_keeps_current (h : s.Cycles t) (hcur : s.IdexCurrent) : t.IdexCurrent ∧ t.ExmemCurrent := by
  cases hb : s.takesBranch with
  | true =>
    obtain ⟨_, hidex, hexmem⟩ := cycles_squashes h hb
    exact ⟨idexCurrent_of_bubble hidex, exmemCurrent_of_bubble hexmem⟩
  | false =>
    refine ⟨?_, cycles_exmemCurrent h hb hcur⟩
    cases hs : s.stalls with
    | true => exact idexCurrent_of_bubble (cycles_idex_of_stall h hs)
    | false => exact cycles_idexCurrent h hs hb

end Carried

/-! ### The commit point does what the sequential meaning says -/

section Commit

variable {s t : State} {i : Instr} {a b d : Reg} {offset : Int} {pc : Word}

/-- What the sequential meaning of the word in MEM acts on: the registers with the write of WB done, and the pc of that word,
which the machine no longer has. -/
def State.archAt (s : State) (pc : Word) : ArchState :=
  { pc := pc, reg := s.retiredReg, imem := s.imem, dmem := s.dmem }

theorem cycles_retiredReg_of_aluWord (h : s.Cycles t) (hop : isRFormat (opcodeOf s.exmem.instr) = true) :
    t.retiredReg = s.retiredReg.write (dest s.exmem.instr) s.exmem.aluResult := by
  have hl : opcodeOf s.exmem.instr ≠ .lw := fun e => by simp [e, isRFormat] at hop
  apply RegFile.ext_read
  intro r
  simp [cycles_retiredReg_read h, State.valueBeforeEx, RegFile.read_write, loadWrites, aluWrites, hop, hl, @eq_comm _ r]

theorem cycles_retiredReg_of_load (h : s.Cycles t) (hop : opcodeOf s.exmem.instr = .lw) :
    t.retiredReg = s.retiredReg.write (regB s.exmem.instr) (s.dmem.read s.exmem.aluResult.toNat) := by
  apply RegFile.ext_read
  intro r
  simp [cycles_retiredReg_read h, State.valueBeforeEx, RegFile.read_write, loadWrites, aluWrites, hop, isRFormat, @eq_comm _ r]

theorem cycles_retiredReg_of_no_write (h : s.Cycles t) (hr : isRFormat (opcodeOf s.exmem.instr) = false)
    (hl : opcodeOf s.exmem.instr ≠ .lw) : t.retiredReg = s.retiredReg := by
  apply RegFile.ext_read
  intro r
  simp [cycles_retiredReg_read h, State.valueBeforeEx, loadWrites, aluWrites, hr, hl]

/-- The word in MEM is `i`, fetched at `pc`, and it carries what EX computes for it from the registers it is executed on. -/
structure State.Commits (s : State) (i : Instr) (pc : Word) : Prop where
  word : s.exmem.instr = encode i
  aluResult : s.exmem.aluResult =
    aluResult i.opcode (decodeLatch s.retiredReg { instr := encode i, pcPlus1 := 0 })
  readRegB : srcB i.opcode = true → s.exmem.readRegB = s.regAfter (regB (encode i))
  branchTarget : s.exmem.branchTarget = branchTargetOf (pc + 1) (sext16 (low16 (encode i)))

/-- Carried values that are current, of an instruction that is not marked. -/
theorem State.ExmemCurrent.commits (hcur : s.ExmemCurrent) (hbad : s.exmem.bad = false) (hw : s.exmem.instr = encode i)
    (htarget : s.exmem.branchTarget = branchTargetOf (pc + 1) (sext16 (low16 s.exmem.instr))) : s.Commits i pc where
  word := hw
  aluResult := by simpa [hw] using hcur.aluResult hbad
  readRegB hB := by simpa [hw] using hcur.readRegB hbad (by simpa [hw] using hB)
  branchTarget := by simpa [hw] using htarget

theorem State.Commits.opcode (hi : s.Commits i pc) : opcodeOf s.exmem.instr = i.opcode := by
  rw [hi.word, opcodeOf_encode]

/-- A LW or SW has computed the address of the sequential meaning (41_loadstore.md R82). -/
theorem State.Commits.dataAddress (hi : s.Commits i pc) (hop : i = .lw a b offset ∨ i = .sw a b offset) :
    s.exmem.aluResult = (s.archAt pc).dataAddress a offset := by
  rw [hi.aluResult]
  rcases hop with rfl | rfl <;>
    simp [decodeLatch, encode, Instr.opcode, Machine.aluResult, ArchState.dataAddress, State.archAt]

/-- A BEQ is taken exactly when the sequential meaning takes it (42_control.md R90, 46_branch_squash.md R140, R141). -/
theorem State.Commits.takesBranch (hi : s.Commits i pc) : takenIn i (s.archAt pc) = s.takesBranch := by
  cases i with
  | beq a b offset =>
    rw [takesBranch_of_beq hi.opcode, hi.aluResult, Bool.eq_iff_iff]
    simp [takenIn, ArchState.branchTaken, State.archAt, Instr.opcode, Machine.aluResult, resultIsZero_compareResult,
      decodeLatch, encode]
  | add | nor | lw | sw | jalr | halt | noop =>
    exact (takesBranch_of_ne_beq (by simp [hi.opcode, Instr.opcode])).symm

/-- The cycle of an instruction at the commit point takes the machine from the state its sequential meaning acts on to the one
it answers; a HALT has no next one and a JALR does not commit. -/
theorem State.Commits.sequential (hi : s.Commits i pc) (h : s.Cycles t) (hhalt : i.opcode ≠ .halt) :
    seqExec i (s.archAt pc) =
      .next (t.archAt (if s.takesBranch then s.exmem.branchTarget else pc + 1)) := by
  have hop := hi.opcode
  have next {f : RegFile} {m : Memory} (hreg : t.retiredReg = f) (hmem : t.dmem = m) (p : Word) :
      t.archAt p = { pc := p, reg := f, imem := s.imem, dmem := m } := by
    rw [State.archAt, hreg, hmem, (everyCycleHasTheCommonFrame s t h).imem]
  have keepsMem (hne : i.opcode ≠ .sw) : t.dmem = s.dmem := cycles_dmem_of_no_store h (by rwa [hop])
  have keepsReg (hr : isRFormat i.opcode = false) (hl : i.opcode ≠ .lw) : t.retiredReg = s.retiredReg :=
    cycles_retiredReg_of_no_write h (by rwa [hop]) (by rwa [hop])
  have notTaken (hne : i.opcode ≠ .beq) : s.takesBranch = false := takesBranch_of_ne_beq (by rwa [hop])
  cases i with
  | add a b d | nor a b d =>
    have hreg := cycles_retiredReg_of_aluWord h (by rw [hop]; rfl)
    rw [hi.aluResult, hi.word] at hreg
    rw [notTaken (by simp [Instr.opcode]), next hreg (keepsMem (by simp [Instr.opcode]))]
    simp [seqExec, ArchState.writeReg, State.archAt, Instr.opcode, Machine.aluResult, decodeLatch, encode]
  | lw a b offset =>
    have hin := cycles_address_inRange h (.inl hop)
    have hreg := cycles_retiredReg_of_load h hop
    rw [hi.dataAddress (.inl rfl)] at hin hreg
    rw [notTaken (by simp [Instr.opcode]), next hreg (keepsMem (by simp [Instr.opcode])), hi.word]
    refine (if_pos hin).trans ?_
    simp [ArchState.writeReg, State.archAt, encode]
  | sw a b offset =>
    have hin := cycles_address_inRange h (.inr hop)
    have hmem : t.dmem = s.dmem.write s.exmem.aluResult.toNat s.exmem.readRegB := by
      rcases cycles_dmem h with ⟨_, _, e⟩ | ⟨hne, _⟩
      · exact e
      · exact absurd hop hne
    rw [hi.dataAddress (.inr rfl)] at hin hmem
    rw [hi.readRegB rfl] at hmem
    rw [notTaken (by simp [Instr.opcode]), next (keepsReg rfl (by simp [Instr.opcode])) hmem]
    refine (if_pos hin).trans ?_
    simp [State.archAt, encode]
  | beq a b offset =>
    have htaken : (s.archAt pc).branchTaken a b = s.takesBranch := hi.takesBranch
    rw [seqExec, htaken, hi.branchTarget, next (keepsReg rfl (by simp [Instr.opcode])) (keepsMem (by simp [Instr.opcode]))]
    cases s.takesBranch <;> simp [State.archAt, encode]
  | jalr a b unused =>
    obtain ⟨_, hjalr⟩ := cycles_memwb_instr h
    exact absurd (cycles_memwb_word h ▸ hop) hjalr
  | halt unused => exact absurd rfl hhalt
  | noop unused =>
    rw [notTaken (by simp [Instr.opcode]),
      next (keepsReg rfl (by simp [Instr.opcode])) (keepsMem (by simp [Instr.opcode]))]
    rfl

end Commit

end Sys2Proof.Machine

/-! ## Safe runs: where the instructions of the executed path stand (70_reset_and_hazards.md R216, R217) -/

namespace Sys2Proof.Machine

/-! ### The slots in front of the commit point -/

section Slots

variable {s t : State} {start : Word} {m e d : Bool}

/-- How far an instruction in a slot moves the address of the next younger one. -/
def slotWidth (occupied : Bool) : Word := if occupied then 1 else 0

/-- The word in a slot: the one at an address of `imem`, or the NOOP of a bubble. -/
def State.slotWord (s : State) (occupied : Bool) (address : Word) : Word :=
  if occupied then s.imem.read address.toNat else Config.noopInstr

/-- The words from address `start` on stand in MEM, EX and ID, in the slots that `m`, `e` and `d` say hold no bubble, and IF
fetches the next one. ID is empty only where nothing has been fetched since the reset or a squash, and EX is empty behind a word
in MEM exactly when the two are a load-use pair (47_pipeline_driver.md R161, 44_hazard_detector.md R111). -/
structure State.InFlight (s : State) (start : Word) (m e d : Bool) : Prop where
  exmem_instr : s.exmem.instr = s.slotWord m start
  idex_instr : s.idex.instr = s.slotWord e (start + slotWidth m)
  ifid_instr : s.ifid.instr = s.slotWord d (start + slotWidth m + slotWidth e)
  pc : s.pc = start + slotWidth m + slotWidth e + slotWidth d
  ifid_pcPlus1 : d = true → s.ifid.pcPlus1 = start + slotWidth m + slotWidth e + 1
  idex_pcPlus1 : e = true → s.idex.pcPlus1 = start + slotWidth m + 1
  branchTarget : m = true →
    s.exmem.branchTarget = branchTargetOf (start + 1) (sext16 (low16 s.exmem.instr))
  filled : m = true ∨ e = true → d = true
  gap : m = true → isLoadUseHazard (s.imem.read (start + 1).toNat) (s.imem.read start.toNat) = !e

/-- Nothing is in flight at the reset and behind a taken branch. -/
theorem inFlight_of_bubbles (hifid : s.ifid = bubbleIfid) (hidex : s.idex = bubbleIdex) (hexmem : s.exmem = bubbleExmem) :
    s.InFlight s.pc false false false := by
  constructor <;> simp [hifid, hidex, hexmem, bubbleIfid, bubbleIdex, bubbleExmem, State.slotWord, slotWidth]

theorem State.InFlight.exmem_of_empty (hf : s.InFlight start false e d) : s.exmem.instr = Config.noopInstr :=
  hf.exmem_instr

theorem State.InFlight.idex_of_empty (hf : s.InFlight start m false d) : s.idex.instr = Config.noopInstr :=
  hf.idex_instr

/-- A stall finds instructions in EX and in ID. -/
theorem State.InFlight.occupied_of_stall (hf : s.InFlight start m e d) (hs : s.stalls = true) : e = true ∧ d = true := by
  have he : e = true := by
    cases e with
    | true => rfl
    | false => simp [stalls_of_noop hf.idex_of_empty] at hs
  exact ⟨he, hf.filled (.inr he)⟩

/-- Every instruction moves on by one slot, but for the one in ID on a stall; IF fetches, or ID still holds its word
(47_pipeline_driver.md R152 to R155, 44_hazard_detector.md R111). -/
theorem State.InFlight.moves (hf : s.InFlight start m e d) (h : s.Cycles t) (hb : s.takesBranch = false)
    (hoffset : s.idex.offset = sext16 (low16 s.idex.instr)) :
    t.InFlight (start + slotWidth m) e (d && !s.stalls) true := by
  have flow := cycles_flowsOn h hb
  have slot (occupied : Bool) (address : Word) : t.slotWord occupied address = s.slotWord occupied address := by
    rw [State.slotWord, (everyCycleHasTheCommonFrame s t h).imem, State.slotWord]
  have branchTarget (he : e = true) : t.exmem.branchTarget =
      branchTargetOf (start + slotWidth m + 1) (sext16 (low16 t.exmem.instr)) := by
    rw [flow.exmem_branchTarget, flow.exmem_instr, hf.idex_pcPlus1 he, hoffset, branchTargetOf]
  have gap (he : e = true) :
      isLoadUseHazard (t.imem.read (start + slotWidth m + 1).toNat) (t.imem.read (start + slotWidth m).toNat) =
        s.stalls := by
    rw [State.stalls, hf.ifid_instr, hf.idex_instr, hf.filled (.inr he), he,
      (everyCycleHasTheCommonFrame s t h).imem]
    rfl
  cases hs : s.stalls with
  | true =>
    obtain ⟨rfl, rfl⟩ := hf.occupied_of_stall hs
    obtain ⟨hpc, hifid⟩ := cycles_holds_fetch h hs hb
    exact
      { exmem_instr := by rw [flow.exmem_instr, hf.idex_instr, slot]
        idex_instr := by simp [flow.idex_instr, hs, State.slotWord]
        ifid_instr := by simp [hifid, hf.ifid_instr, slot, slotWidth]
        pc := by simp [hpc, hf.pc, slotWidth]
        ifid_pcPlus1 := by simp [hifid, hf.ifid_pcPlus1, slotWidth]
        idex_pcPlus1 := by simp
        branchTarget := branchTarget
        filled := fun _ => rfl
        gap := fun he => by rw [gap he, hs]; rfl }
  | false =>
    obtain ⟨hifid, hpc⟩ := cycles_fetches h hs hb
    rw [Bool.not_false, Bool.and_true]
    exact
      { exmem_instr := by rw [flow.exmem_instr, hf.idex_instr, slot]
        idex_instr := by simp [flow.idex_instr, hs, hf.ifid_instr, slot]
        ifid_instr := by rw [hifid, fetchLatch, hf.pc, slot, State.slotWord, if_pos rfl]
        pc := by rw [hpc, State.nextPc, hf.pc]; rfl
        ifid_pcPlus1 := fun _ => by rw [hifid, fetchLatch, State.nextPc, hf.pc]
        idex_pcPlus1 := fun hd => by simp [flow.idex_pcPlus1, hs, hf.ifid_pcPlus1 hd]
        branchTarget := branchTarget
        filled := fun _ => rfl
        gap := fun he => by rw [gap he, hs, hf.filled (.inr he)]; rfl }

end Slots

/-! ### The executed path, and the straight line of addresses it begins with -/

section Path

variable {a b last : ArchState} {path : List Executed} {window : List Instr} {i : Instr} {k : Nat} {r : Reg}

/-- `executedPath` without its fuel: the path from `a` to the state `last` at the HALT; `executes_of_executedPath` ties the
two. -/
inductive Executes : ArchState → List Executed → ArchState → Prop
  | halt {a : ArchState} {i : Instr} (word : a.imem.read a.pc.toNat = encode i) (hop : i.opcode = .halt) :
      Executes a [{ instr := i, taken := false }] a
  | next {a b last : ArchState} {i : Instr} {rest : List Executed} (word : a.imem.read a.pc.toNat = encode i)
      (hexec : seqExec i a = .next b) (hrest : Executes b rest last) :
      Executes a ({ instr := i, taken := takenIn i a } :: rest) last

/-- Only a HALT halts (43_system.md R100). -/
theorem seqExec_halted (h : seqExec i a = .halted b) : i.opcode = .halt ∧ b = a := by
  cases i with
  | halt unused =>
    cases h
    exact ⟨rfl, rfl⟩
  | lw | sw | beq =>
    simp only [seqExec] at h
    split at h <;> cases h
  | add | nor | jalr | noop => cases h

theorem seqStep_of_decode (hd : decode (a.imem.read a.pc.toNat) = .ok i) :
    seqStep a = seqExec i a ∨ ∃ r, seqStep a = .fault r := by
  unfold seqStep
  rw [hd]
  split
  · exact .inl rfl
  · exact .inr ⟨_, rfl⟩

theorem executes_of_executedPath {fuel : Nat} (h : executedPath fuel a = some (path, last)) : Executes a path last := by
  induction fuel generalizing a path with
  | zero => cases h
  | succ fuel ih =>
    unfold executedPath at h
    split at h
    · cases h
    · next i hd =>
      obtain ⟨_, hw⟩ := encodeOfDecodeGivesTheWord _ _ hd
      rcases seqStep_of_decode hd with hstep | ⟨r, hstep⟩ <;> rw [hstep] at h
      · cases hexec : seqExec i a with
        | next b =>
          simp only [hexec, Option.map_eq_some_iff, Prod.mk.injEq, Prod.exists] at h
          obtain ⟨rest, _, hrest, rfl, rfl⟩ := h
          exact .next hw.symm hexec (ih hrest)
        | halted b =>
          obtain ⟨hop, rfl⟩ := seqExec_halted hexec
          simp only [hexec, Option.some.injEq, Prod.mk.injEq] at h
          obtain ⟨rfl, rfl⟩ := h
          exact .halt hw.symm hop
        | fault r | refused r => simp [hexec] at h
      · cases h

/-- The first instruction of a path stands at the pc; it is the HALT, or its sequential meaning leads to the rest. -/
theorem Executes.head (h : Executes a path last) :
    ∃ i, a.imem.read a.pc.toNat = encode i ∧
      ((i.opcode = .halt ∧ path = [{ instr := i, taken := false }] ∧ last = a) ∨
        ∃ b rest, seqExec i a = .next b ∧ Executes b rest last ∧
          path = { instr := i, taken := takenIn i a } :: rest) := by
  cases h with
  | halt word hop => exact ⟨_, word, .inl ⟨hop, rfl, rfl⟩⟩
  | next word hexec hrest => exact ⟨_, word, .inr ⟨_, _, hexec, hrest, rfl⟩⟩

theorem Executes.ne_nil (h : Executes a path last) : path ≠ [] := by
  cases h <;> simp

/-- The sequential meaning writes no instruction word, and goes on at the next address unless it takes a branch. -/
theorem seqExec_next (h : seqExec i a = .next b) : b.imem = a.imem ∧ (takenIn i a = false → b.pc = a.pc + 1) := by
  cases i with
  | add | nor | noop =>
    cases h
    exact ⟨rfl, fun _ => rfl⟩
  | lw | sw =>
    simp only [seqExec] at h
    split at h <;> cases h
    exact ⟨rfl, fun _ => rfl⟩
  | beq ra rb offset =>
    simp only [seqExec] at h
    split at h <;> next htaken =>
      cases h
      simp [takenIn, htaken]
  | jalr | halt => cases h

/-- The instructions of a path up to its first taken BEQ, or to the HALT: they stand at one address after the other. -/
def straightLine : List Executed → List Instr
  | [] => []
  | e :: rest => e.instr :: if e.taken then [] else straightLine rest

theorem Executes.straightLine_word (h : Executes a path last) (hi : (straightLine path)[k]? = some i) :
    a.imem.read (a.pc + BitVec.ofNat 32 k).toNat = encode i := by
  induction h generalizing k with
  | halt word _ =>
    cases k with
    | zero =>
      simp only [straightLine, List.getElem?_cons_zero, Option.some.injEq] at hi
      simpa [hi] using word
    | succ k => simp [straightLine] at hi
  | @next a b last j rest word hexec _ ih =>
    cases k with
    | zero =>
      simp only [straightLine, List.getElem?_cons_zero, Option.some.injEq] at hi
      simpa [hi] using word
    | succ k =>
      cases htaken : takenIn j a with
      | true => simp [straightLine, htaken] at hi
      | false =>
        obtain ⟨himem, hpc⟩ := seqExec_next hexec
        have haddress : a.pc + BitVec.ofNat 32 (k + 1) = a.pc + 1 + BitVec.ofNat 32 k := by
          rw [BitVec.ofNat_add, BitVec.add_comm (BitVec.ofNat 32 k), BitVec.add_assoc]
          rfl
        have hnext := ih (by simpa [straightLine, htaken] using hi)
        rwa [himem, hpc htaken, ← haddress] at hnext

/-- The window behind some more instructions of a straight line, oldest first: `safePathFrom` without a taken BEQ. -/
def windowBehind (window instrs : List Instr) : List Instr :=
  instrs.foldl (fun w i => (i :: w).take 3) window

/-- On a safe path every source on its straight line is safe behind the window of that place (R217). -/
theorem safeSource_of_safePathFrom (h : safePathFrom window path = true) (hi : (straightLine path)[k]? = some i)
    (hr : r ∈ sourcesOf i) : safeSource (windowBehind window ((straightLine path).take k)) r = true := by
  induction path generalizing window k with
  | nil => simp [straightLine] at hi
  | cons e rest ih =>
    simp only [safePathFrom, Bool.and_eq_true, List.all_eq_true] at h
    obtain ⟨hsources, hrest⟩ := h
    cases k with
    | zero =>
      simp only [straightLine, List.getElem?_cons_zero, Option.some.injEq] at hi
      exact hsources r (hi ▸ hr)
    | succ k =>
      cases htaken : e.taken with
      | true => simp [straightLine, htaken] at hi
      | false =>
        simp only [htaken, Bool.false_eq_true, if_false] at hrest
        simp only [straightLine, htaken, Bool.false_eq_true, if_false, List.getElem?_cons_succ] at hi ⊢
        exact ih hrest hi

end Path

/-! ### A safe window marks no operand (R214, R217) -/

section Safe

variable {window : List Instr} {r : Reg} {i j : Instr} {x y z w : Word} {k l : Nat}

/-- Two places of a safe window do not both write the register. -/
theorem not_writesReg_of_safeSource (h : safeSource window r = true) (hkl : k < l) (hi : window[k]? = some i)
    (hj : window[l]? = some j) (hwrites : writesReg i r = true) : writesReg j r = false := by
  by_contra hboth
  rw [Bool.not_eq_false] at hboth
  simp only [safeSource, Bool.and_eq_true, decide_eq_true_eq] at h
  obtain ⟨hk, rfl⟩ := List.getElem?_eq_some_iff.mp hi
  have later : j ∈ window.drop (k + 1) :=
    List.mem_of_getElem? (i := l - (k + 1)) (by rw [List.getElem?_drop, Nat.add_sub_cancel' hkl, hj])
  have pair : [window[k], j].Sublist (window.drop k) := by
    rw [← List.cons_getElem_drop_succ (h := hk)]
    exact (List.singleton_sublist.mpr later).cons_cons _
  have both : [window[k], j].Sublist window := pair.trans (List.drop_sublist k window)
  have two := (both.filter fun i => writesReg i r).length_le
  simp only [List.filter_cons, hwrites, hboth, if_true, List.filter_nil, List.length_cons, List.length_nil] at two
  omega

/-- An ADD or NOR that writes the register is the newest of a safe window. -/
theorem not_aluWrites_of_safeSource (h : safeSource window r = true) (hk : 0 < k) (hi : window[k]? = some i) :
    aluWrites (encode i) r = false := by
  simp only [safeSource, Bool.and_eq_true, List.all_eq_true] at h
  obtain ⟨_, hall⟩ := h
  have later : i ∈ window.drop 1 :=
    List.mem_of_getElem? (i := k - 1) (by rw [List.getElem?_drop, Nat.add_sub_cancel' hk, hi])
  simpa using hall i later

/-- A word that writes a register is the `k`-th newest instruction of the window. -/
def WritesFrom (window : List Instr) (k : Nat) (w : Word) : Prop :=
  isRFormat (opcodeOf w) = true ∨ opcodeOf w = .lw → ∃ i, window[k]? = some i ∧ encode i = w

theorem WritesFrom.of_aluWrites (h : WritesFrom window k w) (hw : aluWrites w r = true) :
    ∃ i, window[k]? = some i ∧ encode i = w :=
  h (.inl (isRFormat_of_aluWrites hw))

theorem WritesFrom.of_loadWrites (h : WritesFrom window k w) (hw : loadWrites w r = true) :
    ∃ i, window[k]? = some i ∧ encode i = w :=
  h (.inr (opcode_of_loadWrites hw))

theorem writesFrom_of_no_write (hr : isRFormat (opcodeOf w) = false) (hl : opcodeOf w ≠ .lw) : WritesFrom window k w := by
  rintro (h | h)
  · simp [hr] at h
  · exact absurd h hl

theorem WritesFrom.not_aluWrites (h : WritesFrom window k w) (hsafe : safeSource window r = true) (hk : 0 < k) :
    aluWrites w r = false := by
  by_contra hw
  obtain ⟨i, hi, rfl⟩ := h.of_aluWrites (Bool.not_eq_false _ ▸ hw)
  exact hw (not_aluWrites_of_safeSource hsafe hk hi)

/-- A LW behind another writer, in a safe window, loads another register. -/
theorem WritesFrom.not_loadWrites (hx : WritesFrom window k x) (hy : WritesFrom window l y)
    (hsafe : safeSource window r = true) (hkl : k < l) (hw : aluWrites x r = true ∨ loadWrites x r = true) :
    loadWrites y r = false := by
  by_contra hload
  obtain ⟨j, hj, rfl⟩ := hy.of_loadWrites (Bool.not_eq_false _ ▸ hload)
  obtain ⟨i, hi, rfl⟩ := hw.elim hx.of_aluWrites hx.of_loadWrites
  have other := not_writesReg_of_safeSource hsafe hkl hi hj (by simpa [writesReg] using hw)
  rw [writesReg, Bool.or_eq_false_iff] at other
  exact hload other.2

/-- The writers of a safe window leave no operand to mark: `x`, `y` and `z` are the words in EX, MEM and WB, `e` and `m` say
whether EX and MEM hold instructions of the window, and behind an ADD or NOR the next slot holds one (R214). -/
theorem rawHazard_of_safeSource {e m storeData : Bool} (hsafe : safeSource window r = true)
    (hx : WritesFrom window 0 x) (hy : WritesFrom window e.toNat y) (hz : WritesFrom window (m.toNat + e.toNat) z)
    (hex : e = false → x = Config.noopInstr ∧ isRFormat (opcodeOf y) = false)
    (hmem : m = false → y = Config.noopInstr ∧ isRFormat (opcodeOf z) = false)
    (hload : loadWrites x r = true → storeData = true) : rawHazard x y z storeData r = false := by
  have aluInMem : aluWrites y r = false := by
    cases e with
    | true => exact hy.not_aluWrites hsafe Nat.one_pos
    | false => simp [aluWrites, hex rfl]
  have aluInWb : aluWrites z r = false := by
    cases m with
    | true => exact hz.not_aluWrites hsafe (Nat.add_pos_left Nat.one_pos _)
    | false => simp [aluWrites, hmem rfl]
  have behindEx (hw : aluWrites x r = true) : loadWrites y r = false ∧ loadWrites z r = false := by
    cases e with
    | true => exact ⟨hx.not_loadWrites hy hsafe Nat.one_pos (.inl hw),
        hx.not_loadWrites hz hsafe (Nat.succ_pos _) (.inl hw)⟩
    | false => simp [aluWrites, isRFormat, hex rfl] at hw
  have behindMem (hw : loadWrites y r = true) : loadWrites z r = false := by
    cases m with
    | true => exact hy.not_loadWrites hz hsafe (Nat.lt_add_of_pos_left Nat.one_pos) (.inr hw)
    | false => simp [loadWrites, hmem rfl] at hw
  unfold rawHazard
  rw [aluInMem, aluInWb]
  split
  · next hw => simp [hload hw]
  split
  · next hw => simp [behindEx hw]
  split
  · next hw => exact behindMem hw
  · simp

end Safe

/-! ### The window of the word in ID, slot by slot -/

section Window

variable {s t : State} {start : Word} {window instrs : List Instr} {m e d occupied : Bool} {k l : Nat} {i : Instr} {w : Word}

theorem windowBehind_take_succ (hi : instrs[k]? = some i) :
    windowBehind window (instrs.take (k + 1)) = (i :: windowBehind window (instrs.take k)).take 3 := by
  simp [windowBehind, List.take_add_one, hi]

/-- The straight line from address `start` on is in program memory, and safe behind the window (R217). -/
structure State.SafeLine (s : State) (start : Word) (window instrs : List Instr) : Prop where
  word : ∀ k i, instrs[k]? = some i → s.imem.read (start + BitVec.ofNat 32 k).toNat = encode i
  safe : ∀ k i r, instrs[k]? = some i → r ∈ sourcesOf i → safeSource (windowBehind window (instrs.take k)) r = true

/-- A word in an occupied slot is the newest of the window behind it. -/
theorem State.SafeLine.slot_writesFrom (hline : s.SafeLine start window instrs)
    (hk : occupied = true → k < instrs.length) (hw : w = s.slotWord occupied (start + BitVec.ofNat 32 k)) :
    WritesFrom (windowBehind window (instrs.take (k + occupied.toNat))) 0 w := by
  subst hw
  cases occupied with
  | false => exact writesFrom_of_no_write (by simp [State.slotWord, isRFormat]) (by simp [State.slotWord])
  | true =>
    have hi := List.getElem?_eq_getElem (hk rfl)
    refine fun _ => ⟨instrs[k]'(hk rfl), ?_, (hline.word _ _ hi).symm⟩
    rw [Bool.toNat_true, windowBehind_take_succ hi]
    rfl

/-- An occupied slot moves the older words of the window one place on. -/
theorem WritesFrom.past_slot (h : WritesFrom (windowBehind window (instrs.take k)) l w) (hl : l < 2)
    (hk : occupied = true → k < instrs.length) :
    WritesFrom (windowBehind window (instrs.take (k + occupied.toNat))) (l + occupied.toNat) w := by
  cases occupied with
  | false => exact h
  | true =>
    intro hw
    obtain ⟨i, hi, hword⟩ := h hw
    refine ⟨i, ?_, hword⟩
    rw [Bool.toNat_true, windowBehind_take_succ (List.getElem?_eq_getElem (hk rfl)), List.getElem?_take, if_pos (by omega),
      List.getElem?_cons_succ, hi]

theorem slotWidth_eq (b : Bool) : slotWidth b = BitVec.ofNat 32 b.toNat := by
  cases b <;> rfl

/-- No instruction of the safe path in EX or MEM is marked; the writer in WB is the newest of the window, and an ADD or NOR
there has an instruction in MEM right behind it. -/
structure State.Unmarked (s : State) (window instrs : List Instr) (m e : Bool) : Prop where
  exmem : s.exmem.bad = false
  idex : (e = true → m.toNat < instrs.length) → s.idex.badA = false ∧ s.idex.badB = false
  memwb : WritesFrom window 0 s.memwb.instr
  memwb_alu : m = false → isRFormat (opcodeOf s.memwb.instr) = false

/-- Behind a bubble in EX stands no ADD or NOR: the word in MEM is another bubble or the LW of a load-use pair. -/
theorem State.InFlight.exmem_not_alu (hf : s.InFlight start m false d) : isRFormat (opcodeOf s.exmem.instr) = false := by
  rw [hf.exmem_instr]
  cases m with
  | false => simp [State.slotWord, isRFormat]
  | true =>
    obtain ⟨hlw, _⟩ := (isLoadUseHazard_iff _ _).mp (hf.gap rfl)
    simp [State.slotWord, hlw, isRFormat]

theorem srcA_iff (op : Opcode) : srcA op = true ↔ op ∈ [.add, .nor, .beq] ∨ op ∈ [.lw, .sw] := by
  cases op <;> simp [srcA]

theorem srcB_iff (op : Opcode) : srcB op = true ↔ op ∈ [.add, .nor, .beq] ∨ op = .sw := by
  cases op <;> simp [srcB]

/-- The detector stalls a word behind the LW of its `regA` (44_hazard_detector.md R110). -/
theorem stalls_of_loadWrites_regA (hA : srcA (opcodeOf s.ifid.instr) = true)
    (hload : loadWrites s.idex.instr (regA s.ifid.instr) = true) : s.stalls = true := by
  obtain ⟨hlw, hreg⟩ := loadWrites_iff.mp hload
  exact (isLoadUseHazard_iff _ _).mpr ⟨hlw,
    ((srcA_iff _).mp hA).imp (fun hop => ⟨hop, .inl hreg.symm⟩) (fun hop => ⟨hop, hreg.symm⟩)⟩

/-- The detector stalls a word behind the LW of its `regB`, but for the store data of a SW. -/
theorem stalls_of_loadWrites_regB (hB : srcB (opcodeOf s.ifid.instr) = true) (hsw : opcodeOf s.ifid.instr ≠ .sw)
    (hload : loadWrites s.idex.instr (regB s.ifid.instr) = true) : s.stalls = true := by
  obtain ⟨hlw, hreg⟩ := loadWrites_iff.mp hload
  have hop := ((srcB_iff _).mp hB).resolve_right hsw
  exact (isLoadUseHazard_iff _ _).mpr ⟨hlw, .inl ⟨hop, .inr hreg.symm⟩⟩

theorem regA_mem_sourcesOf (hA : srcA i.opcode = true) : regA (encode i) ∈ sourcesOf i := by
  simp [sourcesOf, hA]

theorem regB_mem_sourcesOf (hB : srcB i.opcode = true) : regB (encode i) ∈ sourcesOf i := by
  simp [sourcesOf, hB]

/-- A source of an instruction of the safe path gets no mark in ID. -/
theorem State.Unmarked.rawHazard_eq_false (hu : s.Unmarked window instrs m e) (hf : s.InFlight start m e d)
    (hline : s.SafeLine start window instrs) (hi : instrs[m.toNat + e.toNat]? = some i) {r : Reg} (hr : r ∈ sourcesOf i)
    {storeData : Bool} (hload : loadWrites s.idex.instr r = true → storeData = true) :
    rawHazard s.idex.instr s.exmem.instr s.memwb.instr storeData r = false := by
  obtain ⟨hlen, _⟩ := List.getElem?_eq_some_iff.mp hi
  have lenM (hm : m = true) : 0 < instrs.length := by omega
  have lenE (he : e = true) : m.toNat < instrs.length := by rw [he, Bool.toNat_true] at hlen; omega
  have exmem : WritesFrom (windowBehind window (instrs.take (0 + m.toNat))) 0 s.exmem.instr :=
    hline.slot_writesFrom lenM (by simpa using hf.exmem_instr)
  have memwb : WritesFrom (windowBehind window (instrs.take (0 + m.toNat))) (0 + m.toNat) s.memwb.instr :=
    WritesFrom.past_slot (by simpa [windowBehind] using hu.memwb) (by omega) lenM
  rw [Nat.zero_add] at exmem memwb
  have idex := hline.slot_writesFrom (w := s.idex.instr) lenE (by rw [hf.idex_instr, slotWidth_eq])
  have exmem := exmem.past_slot (occupied := e) (by omega) lenE
  have memwb := memwb.past_slot (occupied := e) (by cases m <;> decide) lenE
  rw [Nat.zero_add] at exmem
  refine rawHazard_of_safeSource (hline.safe _ _ _ hi hr) idex exmem memwb ?_ ?_ hload
  · rintro rfl
    exact ⟨hf.idex_of_empty, hf.exmem_not_alu⟩
  · rintro rfl
    exact ⟨hf.exmem_of_empty, hu.memwb_alu rfl⟩

/-- No instruction of the safe path is marked in ID, unless it waits there for a stall. -/
theorem State.Unmarked.not_bad (hu : s.Unmarked window instrs m e) (hf : s.InFlight start m e true)
    (hline : s.SafeLine start window instrs) (hs : s.stalls = false) (hi : instrs[m.toNat + e.toNat]? = some i) :
    s.badA = false ∧ s.badB = false := by
  have word : s.ifid.instr = encode i := by
    rw [hf.ifid_instr, ← hline.word _ _ hi, BitVec.ofNat_add, ← BitVec.add_assoc, ← slotWidth_eq, ← slotWidth_eq]
    rfl
  have hop : opcodeOf s.ifid.instr = i.opcode := by rw [word, opcodeOf_encode]
  rw [State.badA, State.badB]
  constructor
  · cases hA : srcA (opcodeOf s.ifid.instr) with
    | false => rfl
    | true =>
      refine hu.rawHazard_eq_false hf hline hi (word ▸ regA_mem_sourcesOf (hop ▸ hA)) fun hload => ?_
      rw [stalls_of_loadWrites_regA hA hload] at hs
      cases hs
  · cases hB : srcB (opcodeOf s.ifid.instr) with
    | false => rfl
    | true =>
      refine hu.rawHazard_eq_false hf hline hi (word ▸ regB_mem_sourcesOf (hop ▸ hB)) fun hload => ?_
      by_contra hsw
      rw [stalls_of_loadWrites_regB hB (by simpa using hsw) hload] at hs
      cases hs

/-- The word in MEM joins the window, and the one in ID gets no mark. -/
theorem State.Unmarked.moves (hu : s.Unmarked window instrs m e) (hf : s.InFlight start m e d)
    (hline : s.SafeLine start window instrs) (hlen : m.toNat < instrs.length) (h : s.Cycles t)
    (hb : s.takesBranch = false) :
    t.Unmarked (windowBehind window (instrs.take m.toNat)) (instrs.drop m.toNat) e (d && !s.stalls) where
  exmem := by
    obtain ⟨hA, hB⟩ := hu.idex fun _ => hlen
    rw [(cycles_flowsOn h hb).exmem_bad, hA, hB]
    rfl
  idex hnext := by
    have flow := cycles_flowsOn h hb
    rw [flow.idex_badA, flow.idex_badB]
    cases hs : s.stalls with
    | true => exact ⟨rfl, rfl⟩
    | false =>
      cases d with
      | false => simp [State.badA, State.badB, hf.ifid_instr, State.slotWord, srcA, srcB]
      | true =>
        have hin := hnext (by rw [hs]; rfl)
        rw [List.length_drop] at hin
        exact hu.not_bad hf hline hs (List.getElem?_eq_getElem (by omega))
  memwb := by
    rw [cycles_memwb_word h]
    have newest := hline.slot_writesFrom (occupied := m) (k := 0) (w := s.exmem.instr) (by omega)
      (by simpa using hf.exmem_instr)
    rwa [Nat.zero_add] at newest
  memwb_alu he := by
    subst he
    rw [cycles_memwb_word h, hf.exmem_not_alu]

end Window

/-! ### The counts of R216 -/

section Counts

variable {s : State} {start : Word} {m e d : Bool} {x y : Executed} {rest : List Executed}

/-- Cycles until the first instruction in flight, or else the next one fetched, stands in MEM. -/
def fillDelay (m e d : Bool) : Nat := if m then 0 else if e then 1 else if d then 2 else 3

/-- Cycles until the HALT of the path is in `MEMWB`, when the path begins with the oldest instruction in flight. -/
def remainingCycles (path : List Executed) (m e d : Bool) : Nat :=
  fillDelay m e d + path.length + loadUsePairs path + 3 * takenBranches path

/-- With nothing in flight these are the cycles of R216. -/
theorem remainingCycles_empty (path : List Executed) : remainingCycles path false false false = predictedCycles path := by
  simp only [remainingCycles, predictedCycles, fillDelay, Bool.false_eq_true, if_false]
  omega

/-- While MEM is empty a cycle brings the first instruction one slot nearer. -/
theorem State.InFlight.fillDelay_of_empty (hf : s.InFlight start false e d) :
    fillDelay false e d = fillDelay e (d && !s.stalls) true + 1 := by
  cases e with
  | true => rfl
  | false =>
    rw [stalls_of_noop hf.idex_of_empty]
    cases d <;> rfl

/-- Behind an instruction that leaves MEM the next one follows at once, or after the bubble of a stall. -/
theorem State.InFlight.fillDelay_of_occupied (hf : s.InFlight start true e d) :
    fillDelay e (d && !s.stalls) true = if e then 0 else 1 := by
  cases e with
  | true => rfl
  | false =>
    rw [stalls_of_noop hf.idex_of_empty, hf.filled (.inl rfl)]
    rfl

theorem takenBranches_cons : takenBranches (x :: rest) = (if x.taken then 1 else 0) + takenBranches rest := by
  rw [takenBranches, takenBranches, List.filter_cons]
  split
  · rw [List.length_cons, Nat.add_comm]
  · rw [Nat.zero_add]

/-- A HALT in MEM is the last instruction and leaves MEM in one cycle. -/
theorem remainingCycles_halt (hx : x.taken = false) : remainingCycles [x] true e d = 1 := by
  simp [remainingCycles, fillDelay, loadUsePairs, hx, takenBranches]

/-- A taken BEQ leaves MEM and nothing in flight. -/
theorem remainingCycles_taken (hx : x.taken = true) (hpair : isLoadUseHazard (encode y.instr) (encode x.instr) = false) :
    remainingCycles (x :: y :: rest) true e d = remainingCycles (y :: rest) false false false + 1 := by
  simp only [remainingCycles, fillDelay, loadUsePairs, takenBranches_cons (x := x), hx, hpair, List.length_cons, if_true,
    Bool.false_eq_true, if_false]
  omega

/-- Any other instruction leaves MEM with the next one in EX, or still in ID when the two are a load-use pair. -/
theorem State.InFlight.remainingCycles_not_taken (hf : s.InFlight start true e d) (hx : x.taken = false)
    (hpair : isLoadUseHazard (encode y.instr) (encode x.instr) = !e) :
    remainingCycles (x :: y :: rest) true e d = remainingCycles (y :: rest) e (d && !s.stalls) true + 1 := by
  simp only [remainingCycles, hf.fillDelay_of_occupied, loadUsePairs, takenBranches_cons (x := x), hx, hpair,
    List.length_cons]
  cases e <;> simp [fillDelay] <;> omega

end Counts

/-! ### The machine follows the executed path -/

section Follows

variable {s t : State} {a last : ArchState} {window : List Instr} {path : List Executed} {m e d : Bool}

/-- The machine has done everything before `path`: the sequential meaning is in `a`, the instructions of the path behind it are
in flight with their values current and unmarked, and `window` holds those done last, newest first. -/
structure State.Follows (s : State) (a : ArchState) (window : List Instr) (path : List Executed) (last : ArchState)
    (m e d : Bool) : Prop where
  running : s.halted = false
  arch : s.archAt a.pc = a
  idexCurrent : s.IdexCurrent
  exmemCurrent : s.ExmemCurrent
  inFlight : s.InFlight a.pc m e d
  executes : Executes a path last
  safe : safePathFrom window path = true
  unmarked : s.Unmarked window (straightLine path) m e

theorem State.Follows.imem (hs : s.Follows a window path last m e d) : s.imem = a.imem :=
  congrArg ArchState.imem hs.arch

theorem State.Follows.safeLine (hs : s.Follows a window path last m e d) :
    s.SafeLine a.pc window (straightLine path) where
  word k i hi := by rw [hs.imem, hs.executes.straightLine_word hi]
  safe k i r hi hr := safeSource_of_safePathFrom hs.safe hi hr

theorem straightLine_length_pos (hpath : path ≠ []) : 0 < (straightLine path).length := by
  cases path with
  | nil => exact absurd rfl hpath
  | cons x rest => simp [straightLine]

theorem not_halted_of_cycles (h : s.Cycles t) (hop : opcodeOf s.exmem.instr ≠ .halt) : t.halted = false := by
  rw [State.halted, cycles_memwb_word h]
  simpa using hop

/-- While MEM is empty a cycle moves the instructions in flight and does nothing else. -/
theorem State.Follows.fills (hs : s.Follows a window path last false e d) (h : s.Cycles t) :
    t.Follows a window path last e (d && !s.stalls) true := by
  have hf := hs.inFlight
  have hop : opcodeOf s.exmem.instr = .noop := by rw [hf.exmem_of_empty, opcodeOf_noopInstr]
  have hb : s.takesBranch = false := takesBranch_of_ne_beq (by simp [hop])
  obtain ⟨idexCurrent, exmemCurrent⟩ := cycles_keeps_current h hs.idexCurrent
  exact
    { running := not_halted_of_cycles h (by simp [hop])
      arch := by
        rw [State.archAt, cycles_retiredReg_of_no_write h (by simp [hop, isRFormat]) (by simp [hop]),
          cycles_dmem_of_no_store h (by simp [hop]), (everyCycleHasTheCommonFrame s t h).imem]
        exact hs.arch
      idexCurrent := idexCurrent
      exmemCurrent := exmemCurrent
      inFlight := by simpa [slotWidth] using hf.moves h hb hs.idexCurrent.offset
      executes := hs.executes
      safe := hs.safe
      unmarked := by
        simpa [windowBehind] using
          hs.unmarked.moves hf hs.safeLine (straightLine_length_pos hs.executes.ne_nil) h hb }

/-- The first instruction of the path is ready to commit when MEM holds it. -/
theorem State.Follows.commits {i : Instr} (hs : s.Follows a window path last true e d)
    (hw : a.imem.read a.pc.toNat = encode i) : s.Commits i a.pc := by
  refine hs.exmemCurrent.commits hs.unmarked.exmem ?_ (hs.inFlight.branchTarget rfl)
  rw [hs.inFlight.exmem_instr, State.slotWord, if_pos rfl, hs.imem, hw]

theorem takenIn_opcode {i : Instr} (h : takenIn i a = true) : i.opcode = .beq := by
  cases i with
  | beq => rfl
  | add | nor | lw | sw | jalr | halt | noop => cases h

theorem opcode_ne_halt_of_next {i : Instr} {b : ArchState} (h : seqExec i a = .next b) : i.opcode ≠ .halt := by
  cases i with
  | halt => cases h
  | add | nor | lw | sw | beq | jalr | noop => simp [Instr.opcode]

/-- A taken BEQ of the path leaves MEM: the rest of the path begins at its target, with nothing in flight. -/
theorem State.Follows.branches {i : Instr} {rest : List Executed} {b : ArchState}
    (hs : s.Follows a window ({ instr := i, taken := takenIn i a } :: rest) last true e d)
    (hw : a.imem.read a.pc.toNat = encode i) (hexec : seqExec i a = .next b) (hrest : Executes b rest last)
    (htaken : takenIn i a = true) (h : s.Cycles t) : t.Follows b [] rest last false false false := by
  have hi := hs.commits hw
  have hhalt := opcode_ne_halt_of_next hexec
  have hb : s.takesBranch = true := by rw [← hi.takesBranch, hs.arch, htaken]
  have hpc := pcTakesOneOfThreeValues s t h
  have hseq := hi.sequential h hhalt
  rw [hs.arch, hexec, SeqOutcome.next.injEq, hb, if_pos rfl] at hseq
  rw [hb, if_pos rfl] at hpc
  obtain ⟨hifid, hidex, hexmem⟩ := cycles_squashes h hb
  have hword : opcodeOf t.memwb.instr = .beq := by rw [cycles_memwb_word h, hi.opcode, takenIn_opcode htaken]
  have hstart : b.pc = t.pc := by rw [hseq, hpc]; rfl
  have hsafe := hs.safe
  simp only [safePathFrom, htaken, if_true, Bool.and_eq_true] at hsafe
  exact
    { running := not_halted_of_cycles h (by rwa [hi.opcode])
      arch := by rw [hseq]; rfl
      idexCurrent := idexCurrent_of_bubble hidex
      exmemCurrent := exmemCurrent_of_bubble hexmem
      inFlight := hstart ▸ inFlight_of_bubbles hifid hidex hexmem
      executes := hrest
      safe := hsafe.2
      unmarked :=
        { exmem := by rw [hexmem]; rfl
          idex := fun _ => by rw [hidex]; exact ⟨rfl, rfl⟩
          memwb := writesFrom_of_no_write (by rw [hword]; rfl) (by rw [hword]; simp)
          memwb_alu := fun _ => by rw [hword]; rfl } }

/-- Any other instruction of the path leaves MEM: it joins the window, and those behind it move on. -/
theorem State.Follows.advances {i : Instr} {rest : List Executed} {b : ArchState}
    (hs : s.Follows a window ({ instr := i, taken := takenIn i a } :: rest) last true e d)
    (hw : a.imem.read a.pc.toNat = encode i) (hexec : seqExec i a = .next b) (hrest : Executes b rest last)
    (htaken : takenIn i a = false) (h : s.Cycles t) :
    t.Follows b ((i :: window).take 3) rest last e (d && !s.stalls) true := by
  have hi := hs.commits hw
  have hhalt := opcode_ne_halt_of_next hexec
  have hb : s.takesBranch = false := by rw [← hi.takesBranch, hs.arch, htaken]
  have hseq := hi.sequential h hhalt
  rw [hs.arch, hexec, SeqOutcome.next.injEq, hb, if_neg (by simp)] at hseq
  have hstart : b.pc = a.pc + slotWidth true := by rw [hseq]; rfl
  obtain ⟨idexCurrent, exmemCurrent⟩ := cycles_keeps_current h hs.idexCurrent
  have hsafe := hs.safe
  simp only [safePathFrom, htaken, Bool.false_eq_true, if_false, Bool.and_eq_true] at hsafe
  have hline : straightLine ({ instr := i, taken := takenIn i a } :: rest) = i :: straightLine rest := by
    simp [straightLine, htaken]
  have hlen : Bool.toNat true < (straightLine ({ instr := i, taken := takenIn i a } :: rest)).length := by
    rw [hline]
    exact Nat.succ_lt_succ (straightLine_length_pos hrest.ne_nil)
  exact
    { running := not_halted_of_cycles h (by rwa [hi.opcode])
      arch := by rw [hseq]; rfl
      idexCurrent := idexCurrent
      exmemCurrent := exmemCurrent
      inFlight := hstart ▸ hs.inFlight.moves h hb hs.idexCurrent.offset
      executes := hrest
      safe := hsafe.2
      unmarked := by
        have moved := hs.unmarked.moves hs.inFlight hs.safeLine hlen h hb
        rwa [hline] at moved }

/-- Behind the first instruction of a straight line stands the second, and they are a load-use pair exactly when EX is empty. -/
theorem State.Follows.loadUsePair {x y : Executed} {rest : List Executed}
    (hs : s.Follows a window (x :: y :: rest) last true e d) (hx : x.taken = false) :
    isLoadUseHazard (encode y.instr) (encode x.instr) = !e := by
  have first : s.imem.read (a.pc + 0#32).toNat = encode x.instr :=
    hs.safeLine.word 0 x.instr (by simp [straightLine])
  have second : s.imem.read (a.pc + 1#32).toNat = encode y.instr :=
    hs.safeLine.word 1 y.instr (by simp [straightLine, hx])
  rw [BitVec.add_zero] at first
  rw [← first, ← second]
  exact hs.inFlight.gap rfl

/-- A BEQ is no LW (44_hazard_detector.md R110). -/
theorem not_loadUsePair_of_beq {w : Word} {i : Instr} (hop : i.opcode = .beq) : isLoadUseHazard w (encode i) = false := by
  simp [isLoadUseHazard, hop]

/-- A committed cycle on the path ends it, when its HALT leaves MEM, or goes on along it and is one of the cycles counted. -/
theorem State.Follows.step (hs : s.Follows a window path last m e d) (h : s.Cycles t) :
    (remainingCycles path m e d = 1 ∧ t.halted = true ∧ t.reg = last.reg ∧ t.dmem = last.dmem) ∨
      ∃ b window' path' m' e' d', t.Follows b window' path' last m' e' d' ∧
        remainingCycles path m e d = remainingCycles path' m' e' d' + 1 := by
  cases m with
  | false =>
    refine .inr ⟨_, _, _, _, _, _, hs.fills h, ?_⟩
    rw [remainingCycles, hs.inFlight.fillDelay_of_empty, remainingCycles]
    omega
  | true =>
    obtain ⟨i, hw, ⟨hop, rfl, rfl⟩ | ⟨b, rest, hexec, hrest, rfl⟩⟩ := hs.executes.head
    · have hmem : opcodeOf s.exmem.instr = .halt := by rw [(hs.commits hw).opcode, hop]
      refine .inl ⟨remainingCycles_halt rfl, ?_, ?_, ?_⟩
      · rw [halted_iff, cycles_memwb_word h, hmem]
      · rw [cycles_reg h]
        exact congrArg ArchState.reg hs.arch
      · rw [cycles_dmem_of_no_store h (by simp [hmem])]
        exact congrArg ArchState.dmem hs.arch
    · refine .inr ?_
      obtain ⟨y, rest, rfl⟩ := List.exists_cons_of_ne_nil hrest.ne_nil
      cases htaken : takenIn i a with
      | true =>
        have hpair := not_loadUsePair_of_beq (w := encode y.instr) (takenIn_opcode htaken)
        exact ⟨_, _, _, _, _, _, hs.branches hw hexec hrest htaken h, remainingCycles_taken rfl hpair⟩
      | false =>
        have hpair := hs.loadUsePair htaken
        exact ⟨_, _, _, _, _, _, hs.advances hw hexec hrest htaken h,
          hs.inFlight.remainingCycles_not_taken rfl hpair⟩

end Follows

/-! ### Runs -/

section Runs

variable {s t : State} {a last : ArchState} {window : List Instr} {path : List Executed} {m e d : Bool} {k : Nat}

theorem step_of_cycles (h : s.Cycles t) : step s = .next t := by
  obtain ⟨hh, i, hd, he⟩ := (cycles_iff s t).mp h
  rw [step_of_decode_ok hh hd, he]

theorem run_succ_of_step (M : Host.Core) {s t : M.State} (h : M.step s = .next t) (k : Nat) :
    M.run (k + 1) s = M.run k t := by
  rw [Host.Core.run, h]

theorem step_of_run_one (M : Host.Core) {s t : M.State} (h : M.run 1 s = .next t) : M.step s = .next t := by
  rw [Host.Core.run] at h
  split at h
  · next u hu => rwa [Host.Core.run, ← hu] at h
  · cases h
  · cases h

theorem run_succ_of_cycles (h : s.Cycles t) (k : Nat) : core.run (k + 1) s = core.run k t :=
  run_succ_of_step core (step_of_cycles h) k

/-- A run that nothing stops begins with a committed cycle, unless it begins halted. -/
theorem RunsClear.cycles (h : RunsClear (k + 1) s) (hh : s.halted = false) : ∃ t, s.Cycles t ∧ RunsClear k t := by
  obtain ⟨t, hrun⟩ := h 1 (by omega)
  have hstep : step s = .next t := step_of_run_one core hrun
  have hcycle : s.Cycles t := by simp [State.Cycles, cycle, hh, hstep]
  refine ⟨t, hcycle, fun j hj => ?_⟩
  obtain ⟨u, hu⟩ := h (j + 1) (by omega)
  exact ⟨u, run_succ_of_cycles hcycle j ▸ hu⟩

/-- Along a safe path the machine reaches the halt after the cycles counted, and under any policy alike, since no instruction is
marked when it stands in MEM. -/
theorem State.Follows.halts (hs : s.Follows a window path last m e d) (hclear : RunsClear k s)
    (hk : remainingCycles path m e d = k) :
    ∃ t : State, (∀ p, core.run k (s.withPolicy p) = .next (t.withPolicy p)) ∧ t.halted = true ∧ t.reg = last.reg ∧
      t.dmem = last.dmem ∧ t.cycles = s.cycles + k := by
  induction k generalizing s a window path m e d with
  | zero =>
    have hlen := List.length_pos_iff.mpr hs.executes.ne_nil
    simp only [remainingCycles] at hk
    omega
  | succ k ih =>
    obtain ⟨t, h, hclear'⟩ := hclear.cycles hs.running
    have hrun (p : RawPolicy) : core.run (k + 1) (s.withPolicy p) = core.run k (t.withPolicy p) :=
      run_succ_of_cycles (cycles_withPolicy h fun _ => hs.unmarked.exmem) k
    have hcycles : t.cycles = s.cycles + 1 := (everyCycleHasTheCommonFrame s t h).cycles
    rcases hs.step h with ⟨hone, hhalted, hreg, hmem⟩ | ⟨b, window', path', m', e', d', hnext, hcount⟩
    · obtain rfl : k = 0 := by omega
      exact ⟨t, hrun, hhalted, hreg, hmem, hcycles⟩
    · obtain ⟨u, hu, hhalted, hreg, hmem, hcount'⟩ := ih hnext hclear' (by omega)
      exact ⟨u, fun p => (hrun p).trans (hu p), hhalted, hreg, hmem, by omega⟩

theorem retiredReg_of_noop (h : opcodeOf s.memwb.instr = .noop) : s.retiredReg = s.reg := by
  simp [State.retiredReg, retireWord, h]

/-- A loaded state has all of the path before it and nothing in flight. -/
theorem loaded_follows {policy : RawPolicy} {reg0 : RegFile} {image : List Int}
    (hload : loadImage policy reg0 image = .ok s) (hpath : Executes s.arch path last) (hsafe : safePath path = true) :
    s.Follows s.arch [] path last false false false := by
  obtain ⟨_, rfl⟩ := loadImage_eq_ok_iff.mp hload
  have hwb : opcodeOf (State.withImage policy reg0 (image.map wrap32)).memwb.instr = .noop := opcodeOf_noopInstr
  exact
    { running := by rw [State.halted, hwb]; rfl
      arch := by rw [State.archAt, retiredReg_of_noop hwb]; rfl
      idexCurrent := idexCurrent_of_bubble rfl
      exmemCurrent := exmemCurrent_of_bubble rfl
      inFlight := inFlight_of_bubbles rfl rfl rfl
      executes := hpath
      safe := hsafe
      unmarked :=
        { exmem := rfl
          idex := fun _ => ⟨rfl, rfl⟩
          memwb := writesFrom_of_no_write (by rw [hwb]; rfl) (by rw [hwb]; simp)
          memwb_alu := fun _ => by rw [hwb]; rfl } }

end Runs

/-- Settles O44: the machine follows the executed path from the loaded state on, cycle by cycle, and each of its cycles is one
of those that R216 counts. -/
theorem safeRunsComputeTheSequentialResult : Obligations.SafeRunsComputeTheSequentialResult := by
  intro reg0 image s fuel path last hload hpath hsafe hclear policy
  have follows := loaded_follows hload (executes_of_executedPath hpath) hsafe
  obtain ⟨t, hrun, hhalted, hreg, hmem, hcycles⟩ := follows.halts hclear (remainingCycles_empty path)
  have hzero : s.cycles = 0 := by
    obtain ⟨_, rfl⟩ := loadImage_eq_ok_iff.mp hload
    rfl
  refine ⟨t.withPolicy policy, ⟨hrun policy, hhalted⟩, hreg, hmem, ?_⟩
  rwa [hzero, Nat.zero_add] at hcycles

end Sys2Proof.Machine
